-- ==== Sys2Proof/Word.lean ====
section
/-! DEFINITION. The word types of the core and the two ways it cuts and builds words (00_scope.md
R8, R10, R12, R13). -/

namespace Sys2Proof

/-- A byte of memory or of the UART. -/
abbrev Byte := BitVec 8

/-- A 16-bit latch of the interrupt controller, or the prescaler's scaler (R8). -/
abbrev Half := BitVec 16

/-- A peripheral register word, a timer value, an instruction word (R8). -/
abbrev Word := BitVec 32

/-- The value of the widest access (R8, R52). -/
abbrev Double := BitVec 64

/-- A 32-bit physical address (R10). -/
abbrev Addr := BitVec 32

/-- A transaction descriptor (30_encoding.md R60). -/
abbrev Descriptor := BitVec 36

end Sys2Proof
end

