-- ==== Sys2Proof/Config.lean ====
section
/-! DEFINITION. What an implementation fixes (00_scope.md R9): a record of plain data that the
state carries, with the spec's reference values; and the free values, constants without a body. -/

namespace Sys2Proof

/-- The UART emulation strategy (44_uart.md R125). -/
inductive UartMode
  | buffered
  | shift
  deriving DecidableEq, Repr

/-- The binding of the UART's host side (10_state.md R35). -/
inductive HostKind
  | terminal
  | pipeOrFile
  | stdio
  | disabled
  deriving DecidableEq, Repr

/-- The two byte arrays (10_state.md R21, R22). -/
inductive Space
  | rom
  | ram
  deriving DecidableEq, Repr

/-- The fifteen peripheral registers (10_state.md R38). -/
inductive Reg
  | cacheCtrl
  | t1Counter
  | t1Reload
  | t1Control
  | t2Counter
  | t2Reload
  | t2Control
  | preValue
  | preReload
  | uartData
  | uartStatus
  | irqMask
  | irqPending
  | irqForce
  | irqClear
  deriving DecidableEq, Repr

/-- The offset of every register from APB_BASE (30_encoding.md R63). -/
structure Offsets where
  cacheCtrl  : Nat := 0x14
  t1Counter  : Nat := 0x40
  t1Reload   : Nat := 0x44
  t1Control  : Nat := 0x48
  t2Counter  : Nat := 0x50
  t2Reload   : Nat := 0x54
  t2Control  : Nat := 0x58
  preValue   : Nat := 0x60
  preReload  : Nat := 0x64
  uartData   : Nat := 0x70
  uartStatus : Nat := 0x74
  irqMask    : Nat := 0x90
  irqPending : Nat := 0x94
  irqForce   : Nat := 0x98
  irqClear   : Nat := 0x9C
  deriving DecidableEq, Repr

/-- The open parameters of 00_scope.md R9. The default of each field is the spec's reference value
(92_eei_decisions.md), which is the spec's own and no property of the hardware. -/
structure Config where
  romSize       : Nat := 0x01000000
  ramBase       : Nat := 0x40000000
  ramSize       : Nat := 0x01000000
  apbBase       : Nat := 0x80000000
  apbSize       : Nat := 0x00000100
  offsets       : Offsets := {}
  irqT1         : Nat := 8
  irqT2         : Nat := 9
  irqUart       : Nat := 3
  bitEn         : Nat := 0
  bitRl         : Nat := 1
  bitLd         : Nat := 2
  bitDr         : Nat := 0
  bitTs         : Nat := 1
  bitTh         : Nat := 2
  bitOv         : Nat := 4
  wsRamR        : Nat := 0
  wsRamW        : Nat := 0
  wsRomR        : Nat := 0
  wsRomW        : Nat := 0
  wsApbR        : Nat := 0
  wsApbW        : Nat := 0
  memExWs       : Nat := 1
  uartMode      : UartMode := .buffered
  bufCap        : Nat := 1024
  flushInterval : Nat := 3000
  txDelay       : Nat := 1000
  rxPollInterval : Nat := 1000
  txCompleteIrq : Bool := true
  romWritable   : Bool := true
  freqMhz       : Nat := 50
  hostKind      : HostKind := .stdio
  deriving DecidableEq, Repr

/-- The reference configuration of 92_eei_decisions.md. -/
def Config.reference : Config := {}

/-- FREE VALUES (00_scope.md R14 `draw()`): bit pattern number `k` of width `w`. It has no body:
nothing constrains it. Log entry 5. -/
opaque Config.freeBits (w k : Nat) : BitVec w

/-- FREE VALUES (45_host_and_lifecycle.md R147): the host oracle's answer number `k`, any list of
bytes, used once the answers placed in the state are spent. Log entry 6. -/
opaque Config.hostAnswer (k : Nat) : List Byte

/-- FREE VALUES (10_state.md R21, R22): the byte that stands at index `i` of an array before
anything is written there, a launch parameter. Log entry 7. -/
opaque Config.launchByte (sp : Space) (i : Nat) : Byte

end Sys2Proof
end

