-- ==== Sys2Proof/Syntax.lean ====
section
/-! DEFINITION. The operations of the core, one constructor per row of spec/opcode_table.json
(30_encoding.md R60 to R64), and the request that carries one: a descriptor and its operands. -/

namespace Sys2Proof

/-- The width of a data access: `1 << wc` bytes (30_encoding.md R61). -/
inductive Width
  | byte
  | half
  | word
  | double
  deriving DecidableEq, Repr

/-- The bytes an access of this width moves (R61). -/
def Width.bytes : Width → Nat
  | .byte => 1
  | .half => 2
  | .word => 4
  | .double => 8

/-- One operation presented to the core (30_encoding.md R60): the descriptor `desc`; for a data
write its value, of which the width's low bits count; for every access the ASI, ignored (R42); for
bulk transfers the address and the length or the bytes; for ADVANCE the tick count (R62). An operand
that an operation does not have is ignored. -/
structure Request where
  desc  : Descriptor
  value : Double := 0
  asi   : Nat := 0
  addr  : Addr := 0
  len   : Nat := 0
  bytes : List Byte := []
  ticks : Nat := 0
  deriving DecidableEq, Repr

/-- The operations, in the order of spec/opcode_table.json. `a` is a byte address, `v` the value
written, `l` a level. -/
inductive Instr
  | readRam (w : Width) (a : Addr)
  | readRom (w : Width) (a : Addr)
  | writeRam (w : Width) (a : Addr) (v : Double)
  | writeRom (w : Width) (a : Addr) (v : Double)
  | readUnmapped (w : Width) (a : Addr)
  | writeUnmapped (w : Width) (a : Addr) (v : Double)
  | readApbB (a : Addr)
  | writeApbB (a : Addr) (v : Byte)
  | readApbH (a : Addr)
  | writeApbH (a : Addr) (v : Half)
  | readApbD (a : Addr)
  | writeApbD (a : Addr) (v : Double)
  | readIrqMask
  | writeIrqMask (v : Word)
  | readIrqPending
  | writeIrqPending (v : Word)
  | readIrqForce
  | writeIrqForce (v : Word)
  | readIrqClear
  | writeIrqClear (v : Word)
  | readPreValue
  | writePreValue (v : Word)
  | readPreReload
  | writePreReload (v : Word)
  | readT1Counter
  | writeT1Counter (v : Word)
  | readT1Reload
  | writeT1Reload (v : Word)
  | readT1Control
  | writeT1Control (v : Word)
  | readT2Counter
  | writeT2Counter (v : Word)
  | readT2Reload
  | writeT2Reload (v : Word)
  | readT2Control
  | writeT2Control (v : Word)
  | readUartData
  | writeUartData (v : Word)
  | readUartStatus
  | writeUartStatus (v : Word)
  | readCcr
  | writeCcr (v : Word)
  | readApbUnassigned (a : Addr)
  | writeApbUnassigned (a : Addr) (v : Word)
  | ifetchRam (a : Addr)
  | ifetchRom (a : Addr)
  | ifetchOther (a : Addr)
  | irqRaise (l : Byte)
  | irqAck (l : Byte)
  | irqPoll
  | evPrescaler
  | evUartTx
  | evUartRxPoll
  | evUartFlush
  | init
  | reset
  | bootInit
  | halt
  | shutdown
  | bulkRead (a : Addr) (len : Nat)
  | bulkWrite (a : Addr) (bs : List Byte)
  | waitForInterrupt
  | advance (t : Nat)
  deriving DecidableEq, Repr

end Sys2Proof
end

