-- ==== Sys2Proof/Decode.lean ====
section
/-! DEFINITION. Which configurations are admitted (00_scope.md R9, R11), the address windows
(20_memory.md R39, R40), the decoder of a request (30_encoding.md R60 to R64, R72, R73) and the
encoder that goes back. -/

namespace Sys2Proof

/-! ## Registers and their offsets -/

/-- The fifteen registers, once each (10_state.md R38). -/
def Reg.all : List Reg :=
  [.cacheCtrl, .t1Counter, .t1Reload, .t1Control, .t2Counter, .t2Reload, .t2Control, .preValue,
   .preReload, .uartData, .uartStatus, .irqMask, .irqPending, .irqForce, .irqClear]

/-- The parameter OFF_<register> (R63). -/
def Config.offset (c : Config) : Reg → Nat
  | .cacheCtrl => c.offsets.cacheCtrl
  | .t1Counter => c.offsets.t1Counter
  | .t1Reload => c.offsets.t1Reload
  | .t1Control => c.offsets.t1Control
  | .t2Counter => c.offsets.t2Counter
  | .t2Reload => c.offsets.t2Reload
  | .t2Control => c.offsets.t2Control
  | .preValue => c.offsets.preValue
  | .preReload => c.offsets.preReload
  | .uartData => c.offsets.uartData
  | .uartStatus => c.offsets.uartStatus
  | .irqMask => c.offsets.irqMask
  | .irqPending => c.offsets.irqPending
  | .irqForce => c.offsets.irqForce
  | .irqClear => c.offsets.irqClear

/-- The register whose offset this is, if there is one (R76). -/
def registerAt (c : Config) (off : Nat) : Option Reg :=
  Reg.all.find? fun r => c.offset r == off

/-! ## Admitted configurations -/

/-- Two ranges `[a, a+n)` and `[b, b+m)` have no address in common. -/
def disjointRanges (a n b m : Nat) : Bool :=
  a + n ≤ b || b + m ≤ a

/-- All the conditions hold; they are looked at one after another, and the first that fails ends it. -/
def allHold (bs : List Bool) : Bool := bs.all fun b => b

/-- The windows: sizes positive, bases and sizes multiples of 8, pairwise disjoint, each ending at
or below 2^32 (R9, R11). -/
def Config.windowsOk (c : Config) : Bool :=
  allHold
    [decide (0 < c.romSize), decide (0 < c.ramSize), c.romSize % 8 == 0, c.ramBase % 8 == 0,
      c.ramSize % 8 == 0, c.apbBase % 8 == 0, c.apbSize % 8 == 0, decide (c.romSize ≤ 2 ^ 32),
      decide (c.ramBase + c.ramSize ≤ 2 ^ 32), decide (c.apbBase + c.apbSize ≤ 2 ^ 32),
      disjointRanges 0 c.romSize c.ramBase c.ramSize,
      disjointRanges 0 c.romSize c.apbBase c.apbSize,
      disjointRanges c.ramBase c.ramSize c.apbBase c.apbSize]

/-- The offsets: distinct multiples of 4, each register's word inside the peripheral window (R9, R63). -/
def Config.offsetsOk (c : Config) : Bool :=
  decide ((Reg.all.map c.offset).Nodup) &&
  Reg.all.all fun r => c.offset r % 4 == 0 && c.offset r + 4 ≤ c.apbSize

/-- The interrupt levels: in 1..15, pairwise distinct (R9). -/
def Config.levelsOk (c : Config) : Bool :=
  allHold
    [decide (1 ≤ c.irqT1), decide (c.irqT1 ≤ 15), decide (1 ≤ c.irqT2), decide (c.irqT2 ≤ 15),
      decide (1 ≤ c.irqUart), decide (c.irqUart ≤ 15), c.irqT1 != c.irqT2, c.irqT1 != c.irqUart,
      c.irqT2 != c.irqUart]

/-- The bit positions of the control and status words: in 0..31, distinct within a word (R9). -/
def Config.bitsOk (c : Config) : Bool :=
  allHold
    [decide (c.bitEn < 32), decide (c.bitRl < 32), decide (c.bitLd < 32),
      decide ([c.bitEn, c.bitRl, c.bitLd].Nodup), decide (c.bitDr < 32), decide (c.bitTs < 32),
      decide (c.bitTh < 32), decide (c.bitOv < 32),
      decide ([c.bitDr, c.bitTs, c.bitTh, c.bitOv].Nodup)]

/-- The remaining parameters: penalty, capacity and delays at least 1, 1 ≤ F ≤ 65536 (R9). -/
def Config.timesOk (c : Config) : Bool :=
  allHold
    [decide (1 ≤ c.memExWs), decide (1 ≤ c.bufCap), decide (1 ≤ c.flushInterval),
      decide (1 ≤ c.txDelay), decide (1 ≤ c.rxPollInterval), decide (1 ≤ c.freqMhz),
      decide (c.freqMhz ≤ 65536)]

/-- The configurations the model admits: R11's windows, and the constraints of R9 (log entry 1). -/
def Config.admitted (c : Config) : Bool :=
  allHold [c.windowsOk, c.offsetsOk, c.levelsOk, c.bitsOk, c.timesOk]

/-! ## Windows -/

/-- Where an address lies (20_memory.md R39). -/
inductive Window
  | ram
  | apb
  | rom
  | none
  deriving DecidableEq, Repr

/-- `window(a)`, tested in the order RAM, peripheral, ROM (R39, R40). -/
def windowOf (c : Config) (a : Nat) : Window :=
  if c.ramBase ≤ a ∧ a < c.ramBase + c.ramSize then .ram
  else if c.apbBase ≤ a ∧ a < c.apbBase + c.apbSize then .apb
  else if a < c.romSize then .rom
  else .none

/-- The address of a register: `APB_BASE + OFF_<register>` (R63). -/
def regAddr (c : Config) (r : Reg) : Addr :=
  BitVec.ofNat 32 (c.apbBase + c.offset r)

/-- A request is admitted only if its address is a multiple of its width (R50). -/
def aligned (w : Width) (a : Addr) : Bool :=
  a.toNat % w.bytes == 0

/-! ## Descriptor fields (R60) -/

def descKind (d : Descriptor) : BitVec 2 := d.extractLsb' 34 2
def descWc (d : Descriptor) : BitVec 2 := d.extractLsb' 32 2
def descAddr (d : Descriptor) : Addr := d.extractLsb' 0 32
def descOp (d : Descriptor) : BitVec 24 := d.extractLsb' 8 24
def descArg (d : Descriptor) : Byte := d.extractLsb' 0 8

/-- The width code `wc` (R60). -/
def Width.ofCode (wc : BitVec 2) : Width :=
  if wc = 0 then .byte else if wc = 1 then .half else if wc = 2 then .word else .double

/-- `8n`-bit values are taken whole: the low bits the width moves (R61). -/
def truncateTo (w : Width) (v : Double) : Double :=
  BitVec.ofNat 64 (v.toNat % 2 ^ (8 * w.bytes))

/-! ## Decoding -/

/-- Why a request has no operation (R73): R72's reserved forms, then R50's misaligned ones. -/
inductive Reject
  | reserved
  | misaligned
  deriving DecidableEq, Repr

/-- What decoding a request gives. -/
inductive Decoded
  | ok (i : Instr)
  | rejected (r : Reject)
  deriving DecidableEq, Repr

/-- The word read of each register (41_bus.md R85). -/
def readOf : Reg → Instr
  | .cacheCtrl => .readCcr
  | .t1Counter => .readT1Counter
  | .t1Reload => .readT1Reload
  | .t1Control => .readT1Control
  | .t2Counter => .readT2Counter
  | .t2Reload => .readT2Reload
  | .t2Control => .readT2Control
  | .preValue => .readPreValue
  | .preReload => .readPreReload
  | .uartData => .readUartData
  | .uartStatus => .readUartStatus
  | .irqMask => .readIrqMask
  | .irqPending => .readIrqPending
  | .irqForce => .readIrqForce
  | .irqClear => .readIrqClear

/-- The word write of each register (41_bus.md R86). -/
def writeOf (v : Word) : Reg → Instr
  | .cacheCtrl => .writeCcr v
  | .t1Counter => .writeT1Counter v
  | .t1Reload => .writeT1Reload v
  | .t1Control => .writeT1Control v
  | .t2Counter => .writeT2Counter v
  | .t2Reload => .writeT2Reload v
  | .t2Control => .writeT2Control v
  | .preValue => .writePreValue v
  | .preReload => .writePreReload v
  | .uartData => .writeUartData v
  | .uartStatus => .writeUartStatus v
  | .irqMask => .writeIrqMask v
  | .irqPending => .writeIrqPending v
  | .irqForce => .writeIrqForce v
  | .irqClear => .writeIrqClear v

/-- A data read, selected by window, width and offset (R73 (4), (5)). -/
def decodeRead (c : Config) (w : Width) (a : Addr) : Instr :=
  match windowOf c a.toNat with
  | .ram => .readRam w a
  | .rom => .readRom w a
  | .none => .readUnmapped w a
  | .apb =>
    match w with
    | .byte => .readApbB a
    | .half => .readApbH a
    | .double => .readApbD a
    | .word =>
      match registerAt c (a.toNat - c.apbBase) with
      | some r => readOf r
      | none => .readApbUnassigned a

/-- A data write, selected likewise; its value is taken at the width's bits (R61, R73). -/
def decodeWrite (c : Config) (w : Width) (a : Addr) (v : Double) : Instr :=
  match windowOf c a.toNat with
  | .ram => .writeRam w a (truncateTo w v)
  | .rom => .writeRom w a (truncateTo w v)
  | .none => .writeUnmapped w a (truncateTo w v)
  | .apb =>
    match w with
    | .byte => .writeApbB a (v.setWidth 8)
    | .half => .writeApbH a (v.setWidth 16)
    | .double => .writeApbD a v
    | .word =>
      match registerAt c (a.toNat - c.apbBase) with
      | some r => writeOf (v.setWidth 32) r
      | none => .writeApbUnassigned a (v.setWidth 32)

/-- An instruction fetch (41_bus.md R90). -/
def decodeFetch (c : Config) (a : Addr) : Instr :=
  match windowOf c a.toNat with
  | .ram => .ifetchRam a
  | .rom => .ifetchRom a
  | .apb => .ifetchOther a
  | .none => .ifetchOther a

/-- A call or event, selected by `op`; none for an `op` that R62 does not list. -/
def decodeCall (r : Request) : Option Instr :=
  let op := (descOp r.desc).toNat
  if op = 0x000001 then some (.irqRaise (descArg r.desc))
  else if op = 0x000002 then some (.irqAck (descArg r.desc))
  else if op = 0x000003 then some .irqPoll
  else if op = 0x000010 then some .evPrescaler
  else if op = 0x000011 then some .evUartTx
  else if op = 0x000012 then some .evUartRxPoll
  else if op = 0x000013 then some .evUartFlush
  else if op = 0x000020 then some .init
  else if op = 0x000021 then some .reset
  else if op = 0x000022 then some .bootInit
  else if op = 0x000023 then some .halt
  else if op = 0x000024 then some .shutdown
  else if op = 0x000030 then some (.bulkRead r.addr r.len)
  else if op = 0x000031 then some (.bulkWrite r.addr r.bytes)
  else if op = 0x000040 then some .waitForInterrupt
  else if op = 0x000041 then some (.advance r.ticks)
  else none

/-- The descriptors that have no meaning (R72). -/
def reservedRequest (r : Request) : Bool :=
  (descKind r.desc == 2 && descWc r.desc != 2) ||
  (descKind r.desc == 3 && (descWc r.desc != 0 || (decodeCall r).isNone))

/-- The decoder (R73): reserved forms, then the call, then alignment, then the window. -/
def decode (c : Config) (r : Request) : Decoded :=
  if reservedRequest r then .rejected .reserved
  else if descKind r.desc = 3 then
    match decodeCall r with
    | some i => .ok i
    | none => .rejected .reserved
  else
    let w := Width.ofCode (descWc r.desc)
    let a := descAddr r.desc
    if aligned w a then
      if descKind r.desc = 0 then .ok (decodeRead c w a)
      else if descKind r.desc = 1 then .ok (decodeWrite c w a r.value)
      else .ok (decodeFetch c a)
    else .rejected .misaligned

/-! ## Encoding -/

/-- The width code of a width (R60). -/
def Width.code : Width → BitVec 2
  | .byte => 0
  | .half => 1
  | .word => 2
  | .double => 3

/-- The descriptor of an access: kind, width code, address (R60). -/
def accessDesc (kind wc : BitVec 2) (a : Addr) : Descriptor :=
  BitVec.ofNat 36 (2 ^ 34 * kind.toNat + 2 ^ 32 * wc.toNat + a.toNat)

/-- The descriptor of a call or event: kind 11, width code 00, `op`, `arg` (R60). -/
def callDesc (op : BitVec 24) (arg : Byte) : Descriptor :=
  BitVec.ofNat 36 (3 * 2 ^ 34 + 2 ^ 8 * op.toNat + arg.toNat)

/-- A data read of a width at an address. -/
def readRequest (w : Width) (a : Addr) : Request := { desc := accessDesc 0 w.code a }

/-- A data write of a width at an address. -/
def writeRequest (w : Width) (a : Addr) (v : Double) : Request :=
  { desc := accessDesc 1 w.code a, value := v }

/-- The word read of a register. -/
def regRead (c : Config) (r : Reg) : Request := readRequest .word (regAddr c r)

/-- The word write of a register. -/
def regWrite (c : Config) (r : Reg) (v : Word) : Request :=
  writeRequest .word (regAddr c r) (v.setWidth 64)

/-- A call without operands. -/
def callRequest (op : BitVec 24) : Request := { desc := callDesc op 0 }

/-- The encoder: a request that asks for the instruction (R60 to R63). -/
def encode (c : Config) : Instr → Request
  | .readRam w a => readRequest w a
  | .readRom w a => readRequest w a
  | .writeRam w a v => writeRequest w a v
  | .writeRom w a v => writeRequest w a v
  | .readUnmapped w a => readRequest w a
  | .writeUnmapped w a v => writeRequest w a v
  | .readApbB a => readRequest .byte a
  | .writeApbB a v => writeRequest .byte a (v.setWidth 64)
  | .readApbH a => readRequest .half a
  | .writeApbH a v => writeRequest .half a (v.setWidth 64)
  | .readApbD a => readRequest .double a
  | .writeApbD a v => writeRequest .double a v
  | .readIrqMask => regRead c .irqMask
  | .writeIrqMask v => regWrite c .irqMask v
  | .readIrqPending => regRead c .irqPending
  | .writeIrqPending v => regWrite c .irqPending v
  | .readIrqForce => regRead c .irqForce
  | .writeIrqForce v => regWrite c .irqForce v
  | .readIrqClear => regRead c .irqClear
  | .writeIrqClear v => regWrite c .irqClear v
  | .readPreValue => regRead c .preValue
  | .writePreValue v => regWrite c .preValue v
  | .readPreReload => regRead c .preReload
  | .writePreReload v => regWrite c .preReload v
  | .readT1Counter => regRead c .t1Counter
  | .writeT1Counter v => regWrite c .t1Counter v
  | .readT1Reload => regRead c .t1Reload
  | .writeT1Reload v => regWrite c .t1Reload v
  | .readT1Control => regRead c .t1Control
  | .writeT1Control v => regWrite c .t1Control v
  | .readT2Counter => regRead c .t2Counter
  | .writeT2Counter v => regWrite c .t2Counter v
  | .readT2Reload => regRead c .t2Reload
  | .writeT2Reload v => regWrite c .t2Reload v
  | .readT2Control => regRead c .t2Control
  | .writeT2Control v => regWrite c .t2Control v
  | .readUartData => regRead c .uartData
  | .writeUartData v => regWrite c .uartData v
  | .readUartStatus => regRead c .uartStatus
  | .writeUartStatus v => regWrite c .uartStatus v
  | .readCcr => regRead c .cacheCtrl
  | .writeCcr v => regWrite c .cacheCtrl v
  | .readApbUnassigned a => readRequest .word a
  | .writeApbUnassigned a v => writeRequest .word a (v.setWidth 64)
  | .ifetchRam a => { desc := accessDesc 2 2 a }
  | .ifetchRom a => { desc := accessDesc 2 2 a }
  | .ifetchOther a => { desc := accessDesc 2 2 a }
  | .irqRaise l => { desc := callDesc 0x000001 l }
  | .irqAck l => { desc := callDesc 0x000002 l }
  | .irqPoll => callRequest 0x000003
  | .evPrescaler => callRequest 0x000010
  | .evUartTx => callRequest 0x000011
  | .evUartRxPoll => callRequest 0x000012
  | .evUartFlush => callRequest 0x000013
  | .init => callRequest 0x000020
  | .reset => callRequest 0x000021
  | .bootInit => callRequest 0x000022
  | .halt => callRequest 0x000023
  | .shutdown => callRequest 0x000024
  | .bulkRead a len => { desc := callDesc 0x000030 0, addr := a, len := len }
  | .bulkWrite a bs => { desc := callDesc 0x000031 0, addr := a, bytes := bs }
  | .waitForInterrupt => callRequest 0x000040
  | .advance t => { desc := callDesc 0x000041 0, ticks := t }

/-! ## The table's words -/

/-- The request a descriptor makes alone: every operand beside the descriptor is zero or empty. -/
def requestOfWord (w : Nat) : Request := { desc := BitVec.ofNat 36 w }

/-- What the decoder reads from a word of spec/opcode_table.json, in the reference configuration
the table is written for (R73). Bit numbers are the descriptor's; a word of more than 36 bits is no
descriptor. -/
def decodeTableWord (nbits w : Nat) : Option Instr :=
  if w < 2 ^ 36 ∧ w < 2 ^ nbits then
    match decode Config.reference (requestOfWord w) with
    | .ok i => some i
    | .rejected _ => none
  else none

end Sys2Proof
end

