-- ==== Sys2Proof/Machine/State.lean ====
section
/-! DEFINITION. The state of the core (10_state.md R21 to R37), as plain data; what a step can
answer; and the state after reset. -/

namespace Sys2Proof.Machine

/-! ## Parts of the state -/

/-- A byte array as the list of the bytes written to it, keyed by index, indices strictly rising. An
index that is not listed holds no written byte. -/
abbrev Memory := List Host.Cell

/-- The interrupt controller's latches (R24). `irl` is derived (R25). -/
structure Ic where
  pending : Half
  forced  : Half
  mask    : Half
  deriving DecidableEq, Repr

/-- A timer channel (R26). -/
structure Channel where
  counter : Word
  reload  : Word
  en      : Bool
  rl      : Bool
  deriving DecidableEq, Repr

/-- Which timer channel. -/
inductive Chan
  | one
  | two
  deriving DecidableEq, Repr

/-- The prescaler (R27). -/
structure Prescaler where
  scaler   : Half
  loadedAt : Nat
  deriving DecidableEq, Repr

/-- The UART's buffered-mode fields (R29). `inbuf` lists the bytes of the input buffer from position
0 on; a position past its end holds an unspecified byte. -/
structure BufferedUart where
  inbuf     : List Byte
  inFill    : Nat
  inConsume : Nat
  outbuf    : List Byte
  deriving DecidableEq, Repr

/-- The UART's shift-register-mode fields (R30). -/
structure ShiftUart where
  shiftReg : Byte
  holdReg  : Byte
  rxData   : Byte
  dr       : Bool
  ts       : Bool
  th       : Bool
  ov       : Bool
  deriving DecidableEq, Repr

/-- The core's event sources (R34). -/
inductive Source
  | prescaler
  | uartTx
  | uartRxPoll
  | uartFlush
  deriving DecidableEq, Repr

/-- An entry of the event queue, less its source (R34). -/
structure Slot where
  due : Nat
  seq : Nat
  deriving DecidableEq, Repr

/-- The event queue: at most one entry for each source (R34). -/
structure Queue where
  prescaler  : Option Slot
  uartTx     : Option Slot
  uartRxPoll : Option Slot
  uartFlush  : Option Slot
  deriving DecidableEq, Repr

/-- Virtual time and the event queue (R33, R34). -/
structure Sched where
  now     : Nat
  queue   : Queue
  nextSeq : Nat
  deriving DecidableEq, Repr

/-- The binding of the UART's host side and what the core has written to it (R35). -/
structure HostPort where
  kind    : HostKind
  inOpen  : Bool
  outOpen : Bool
  rawSet  : Bool
  emitted : List Byte
  deriving DecidableEq, Repr

/-- The lifecycle phase (R36). -/
inductive Phase
  | uninit
  | ready
  | closed
  deriving DecidableEq, Repr

/-- The causes of a BusException (60_exceptions.md R154). -/
inductive Cause
  | unmapped
  | badWidth
  | readOnly
  deriving DecidableEq, Repr

/-- What an operation returns to whoever issued it (00_scope.md R15, 41_bus.md R75, R91, R100). A
value of a data read stands in 64 bits, its width beside it. -/
inductive Response
  | noResult
  | value (w : Width) (v : Double) (ws : Nat)
  | written (ws : Nat)
  | exception (cause : Cause) (ws : Nat)
  | fetched (v : Word)
  | fetchException (cause : Cause)
  | bytes (bs : List Byte)
  | bulkFailed
  | level (l : Nat)
  | done
  deriving DecidableEq, Repr

/-- One move of the agents around the core (45_host_and_lifecycle.md R144): the CPU presents an
operation; an external device raises a level (R98); the scheduler moves. Log entry 2. -/
inductive Move
  | cpu (r : Request)
  | device (l : Byte)
  | scheduler
  deriving DecidableEq, Repr

/-! ## The state -/

/-- The state of the core. The fields from `waiting` on are the model's own: see INVENTORY.md. -/
structure State where
  cfg       : Config
  rom       : Memory
  ram       : Memory
  ic        : Ic
  t1        : Channel
  t2        : Channel
  pre       : Prescaler
  buf       : BufferedUart
  shift     : ShiftUart
  ccr       : Word
  sched     : Sched
  host      : HostPort
  phase     : Phase
  waiting   : Bool
  response  : Response
  notices   : List Nat
  inbox     : List Move
  answers   : List (List Byte)
  hostReads : Nat
  draws     : Nat
  deriving DecidableEq, Repr

def State.setRom (s : State) (x : Memory) : State := { s with rom := x }
def State.setRam (s : State) (x : Memory) : State := { s with ram := x }
def State.setIc (s : State) (x : Ic) : State := { s with ic := x }
def State.setT1 (s : State) (x : Channel) : State := { s with t1 := x }
def State.setT2 (s : State) (x : Channel) : State := { s with t2 := x }
def State.setPre (s : State) (x : Prescaler) : State := { s with pre := x }
def State.setBuf (s : State) (x : BufferedUart) : State := { s with buf := x }
def State.setShift (s : State) (x : ShiftUart) : State := { s with shift := x }
def State.setCcr (s : State) (x : Word) : State := { s with ccr := x }
def State.setSched (s : State) (x : Sched) : State := { s with sched := x }
def State.setHost (s : State) (x : HostPort) : State := { s with host := x }
def State.setPhase (s : State) (x : Phase) : State := { s with phase := x }
def State.setWaiting (s : State) (x : Bool) : State := { s with waiting := x }
def State.setResponse (s : State) (x : Response) : State := { s with response := x }
def State.setNotices (s : State) (x : List Nat) : State := { s with notices := x }
def State.setInbox (s : State) (x : List Move) : State := { s with inbox := x }
def State.setAnswers (s : State) (x : List (List Byte)) : State := { s with answers := x }
def State.setHostReads (s : State) (x : Nat) : State := { s with hostReads := x }
def State.setDraws (s : State) (x : Nat) : State := { s with draws := x }

/-! ## What a step can answer besides a next state -/

/-- The reasons the machine stops. -/
inductive Fault
  /-- Raised by INIT when the phase is not `uninit` (R150, R156): the core aborts. Safe: the spec's
  own stop. -/
  | protocolMisuse
  /-- Raised by a wait for interrupt with `irl = 0` and an empty event queue (R170): nothing can
  ever assert a line. Safe: the spec's own stuck state. -/
  | waitHang
  /-- Raised by ADVANCE when events fire for ever at one time, which takes a delay of zero: no
  admitted configuration has one (R9). Safe: the machine stops. -/
  | advanceHang
  /-- Raised by a scheduler move when an entry is overdue, where R144 enables neither a firing nor a
  time step. No run from reset gets there. Safe: the spec's own stuck state. -/
  | overdueEntry
  deriving DecidableEq, Repr

/-- The requests the spec or the model gives no meaning (R157). All are safe: the model stops. -/
inductive Refusal
  /-- An operation without a meaning in this model: an arm of `exec` that is not written yet. -/
  | notModelled (mnemonic : String)
  /-- A descriptor R72 reserves, and RESET after SHUTDOWN (R171). Raised by the step and by RESET. -/
  | reserved
  /-- An address that is no multiple of the width (R50). Raised by the step. -/
  | misaligned
  /-- A level outside 1..15 (R98, R99). Raised by IRQ_RAISE, IRQ_ACK and a device's raise. -/
  | badLevel
  /-- A write of IRQ_PENDING, PRESCALER_VALUE or UART_STATUS (R104, R112, R130). -/
  | noWriteMeaning
  /-- A word write of an unassigned peripheral offset (R87). -/
  | unassignedRegister
  /-- A configuration R11 or U23 does not admit, or one that breaks another constraint of R9 (log
  entry 1). Raised by the step. -/
  | configNotAdmitted
  /-- An event of the UART mode that is not selected, whose fields do not exist (R28). Raised by
  EV_UART_TX, EV_UART_RX_POLL and EV_UART_FLUSH. -/
  | wrongUartMode
  deriving DecidableEq, Repr

/-- What a meaning answers. -/
abbrev Result := Host.Outcome State Fault Refusal

/-! ## Reset -/

/-- The state after INIT at virtual time 0 in a configuration (45_host_and_lifecycle.md R150,
70_reset_and_hazards.md R171, R172), where the host's streams opened. The registers R172 leaves
unspecified hold 0 (DESIGN CHOICE, unsafe; log entry 8). Log entry 9. -/
def State.initial (c : Config) : State where
  cfg := c
  rom := []
  ram := []
  ic := ⟨0, 0, 0⟩
  t1 := ⟨0, 0, false, false⟩
  t2 := ⟨0, 0, false, false⟩
  pre := ⟨0, 0⟩
  buf := ⟨[], 0, 0, []⟩
  shift := ⟨0, 0, 0, false, true, true, false⟩
  ccr := 0
  sched :=
    { now := 0
      queue :=
        match c.uartMode with
        | .buffered => ⟨some ⟨1, 0⟩, none, none, some ⟨c.flushInterval, 1⟩⟩
        | .shift => ⟨some ⟨1, 0⟩, none, some ⟨c.rxPollInterval, 1⟩, none⟩
      nextSeq := 2 }
  host :=
    { kind := c.hostKind
      inOpen := c.hostKind != .disabled
      outOpen := true
      rawSet := c.hostKind == .terminal
      emitted := [] }
  phase := .ready
  waiting := false
  response := .noResult
  notices := []
  inbox := []
  answers := []
  hostReads := 0
  draws := 0

/-- The machine right after reset, in the reference configuration. -/
def State.reset : State := State.initial Config.reference

end Sys2Proof.Machine
end

