-- ==== Sys2Proof/Machine/Flags.lean ====
section
/-! DEFINITION. The flag words and the arbiter: the asserted level (42_interrupt_controller.md R94),
the UART status words (44_uart.md R134, R139) and the timer control word (43_timer.md R123). -/

namespace Sys2Proof.Machine

/-! ## The arbiter -/

/-- The bits the arbiter scans: `(pending | forced) & mask` (R94). -/
def Ic.active (c : Ic) : Half := (c.pending ||| c.forced) &&& c.mask

/-- Scan levels `n` down to 1: the first active one, else 0 (R94). -/
def highestActive (active : Half) : Nat → Nat
  | 0 => 0
  | n + 1 => if active.getLsbD (n + 1) then n + 1 else highestActive active n

/-- `arb(ic)` (R94). -/
def arb (c : Ic) : Nat := highestActive c.active 15

/-- The asserted level, at every instant `arb(ic)` (10_state.md R25). -/
def irl (s : State) : Nat := arb s.ic

/-! ## Words of flags -/

/-- The word `r` with bit `i` set to `b`: `r[i] <- b`. -/
def putBit (r : Word) (i : Nat) (b : Bool) : Word :=
  if b then r ||| (1#32 <<< i) else r &&& ~~~(1#32 <<< i)

/-- Data-ready in buffered mode: at least one byte available (10_state.md R29, 44_uart.md R134). -/
def BufferedUart.dataReady (u : BufferedUart) : Bool := u.inConsume < u.inFill

/-- The buffered-mode status word over the drawn word `d` (R134). -/
def bufferedStatus (c : Config) (u : BufferedUart) (d : Word) : Word :=
  putBit (putBit (putBit d c.bitDr u.dataReady) c.bitTs true) c.bitTh true

/-- The shift-mode status word over the drawn word `d` (R139). -/
def shiftStatus (c : Config) (u : ShiftUart) (d : Word) : Word :=
  putBit (putBit (putBit (putBit d c.bitDr u.dr) c.bitTs u.ts) c.bitTh u.th) c.bitOv u.ov

/-- The control word of a channel over the drawn word `d` (R123). -/
def controlWord (c : Config) (ch : Channel) (d : Word) : Word :=
  putBit (putBit d c.bitEn ch.en) c.bitRl ch.rl

/-- What a control write leaves of a channel (R120): EN and RL stored; LD, a command, copies the
reload into the counter. -/
def controlWrite (c : Config) (ch : Channel) (v : Word) : Channel :=
  { ch with
    en := v.getLsbD c.bitEn
    rl := v.getLsbD c.bitRl
    counter := if v.getLsbD c.bitLd then ch.reload else ch.counter }

end Sys2Proof.Machine
end

