-- ==== Sys2Proof/Machine/Operands.lean ====
section
/-! DEFINITION. Operand forms: bytes of a value in big-endian order (20_memory.md R45 to R47), the
index of an address in its array, the low bits a narrow register takes (30_encoding.md R71) and the
words with undefined high bits (R65, R68, R69). -/

namespace Sys2Proof.Machine

/-! ## Big-endian values -/

/-- The value of a list of bytes, the first the most significant (R46). -/
def beValue (bs : List Byte) : Double :=
  bs.foldl (fun acc b => (acc <<< 8) ||| b.setWidth 64) 0

/-- The `n` bytes of a value, the most significant first (R47). -/
def beBytes (n : Nat) (v : Double) : List Byte :=
  (List.range n).map fun k => (v >>> (8 * (n - 1 - k))).setWidth 8

/-! ## Addresses -/

/-- The base address of an array's window (R39). -/
def spaceBase (c : Config) : Space → Nat
  | .rom => 0
  | .ram => c.ramBase

/-- The size of an array's window (R39). -/
def spaceSize (c : Config) : Space → Nat
  | .rom => c.romSize
  | .ram => c.ramSize

/-- The index `a - base` of an address in an array (R46). -/
def indexOf (c : Config) (sp : Space) (a : Addr) : Nat := a.toNat - spaceBase c sp

/-- `[a, a+len)` lies inside one array's window (41_bus.md R91, R92); exact arithmetic. -/
def rangeInside (c : Config) (sp : Space) (a : Addr) (len : Nat) : Bool :=
  spaceBase c sp ≤ a.toNat && a.toNat + len ≤ spaceBase c sp + spaceSize c sp

/-- The array whose window holds all of `[a, a+len)`, if one does (R91, R92). -/
def rangeSpace (c : Config) (a : Addr) (len : Nat) : Option Space :=
  if rangeInside c .ram a len then some .ram
  else if rangeInside c .rom a len then some .rom
  else none

/-! ## Register words -/

/-- The low 16 bits a narrow register takes (R71). -/
def low16 (v : Word) : Half := v.setWidth 16

/-- The byte UART_DATA takes (R68, R71). -/
def low8 (v : Word) : Byte := v.setWidth 8

/-- A 16-bit register read as a word, its high half drawn (R65, R69). -/
def halfWord (d : Half) (v : Half) : Word := d ++ v

/-- A received byte read as a word, its high bits drawn (R68). -/
def byteWord (d : BitVec 24) (b : Byte) : Word := d ++ b

end Sys2Proof.Machine
end

