-- ==== Sys2Proof/Machine/Ops.lean ====
section
/-! DEFINITION. The named operations the meanings share: memory, draws, answers to the CPU and the
BusException, the interrupt latches, timer channels, the event queue, the host's two streams. -/

namespace Sys2Proof.Machine

/-! ## Memory (10_state.md R21, R22; 20_memory.md R46, R47) -/

/-- The byte written at an index, if one was. -/
def Memory.lookup : Memory → Nat → Option Byte
  | [], _ => none
  | (j, b) :: m, i => if j = i then some b else Memory.lookup m i

/-- The memory with byte `b` at index `i`. -/
def Memory.store : Memory → Nat → Byte → Memory
  | [], i, b => [(i, b)]
  | (j, c) :: m, i, b =>
    if i < j then (i, b) :: (j, c) :: m
    else if i = j then (i, b) :: m
    else (j, c) :: Memory.store m i b

/-- The memory with the bytes `bs` at the indices from `i` on. -/
def Memory.storeAll (m : Memory) (i : Nat) : List Byte → Memory
  | [] => m
  | b :: bs => Memory.storeAll (m.store i b) (i + 1) bs

/-- The canonical form: indices strictly rising. An unlisted index holds no written byte, so no
listed entry can equal it. -/
def Memory.wf (m : Memory) : Bool := decide ((m.map Prod.fst).Pairwise (· < ·))

/-- Every listed index lies below `n`. -/
def Memory.below (m : Memory) (n : Nat) : Bool := m.all fun e => e.1 < n

/-- The array of a space. -/
def array (sp : Space) (s : State) : Memory :=
  match sp with
  | .rom => s.rom
  | .ram => s.ram

/-- The state with the array of a space replaced. -/
def setArray (sp : Space) (m : Memory) (s : State) : State :=
  match sp with
  | .rom => s.setRom m
  | .ram => s.setRam m

/-- The byte at an index: the one last written, else the launch contents, a free value (R21, R22). -/
def byteAt (sp : Space) (s : State) (i : Nat) : Byte :=
  ((array sp s).lookup i).getD (Config.launchByte sp i)

/-- The `n` bytes from an index on. -/
def bytesAt (sp : Space) (s : State) (i n : Nat) : List Byte :=
  (List.range n).map fun k => byteAt sp s (i + k)

/-- `MemRead` (R46). -/
def memRead (sp : Space) (s : State) (a : Addr) (w : Width) : Double :=
  beValue (bytesAt sp s (indexOf s.cfg sp a) w.bytes)

/-- Bytes written from an index on. -/
def writeBytes (sp : Space) (i : Nat) (bs : List Byte) (s : State) : State :=
  setArray sp ((array sp s).storeAll i bs) s

/-- `MemWrite` (R47). -/
def memWrite (sp : Space) (a : Addr) (w : Width) (v : Double) (s : State) : State :=
  writeBytes sp (indexOf s.cfg sp a) (beBytes w.bytes v) s

/-! ## Draws (00_scope.md R14) -/

/-- The `k`-th value a step draws, of width `w`: a free value. -/
def free (s : State) (w k : Nat) : BitVec w := Config.freeBits w (s.draws + k)

/-- One drawn bit. -/
def freeBit (s : State) (k : Nat) : Bool := (free s 1 k).getLsbD 0

/-- The state after `n` draws. -/
def drew (n : Nat) (s : State) : State := s.setDraws (s.draws + n)

/-! ## Answers to whoever issued the operation (R15, R75) -/

/-- The operation returns `r`. -/
def respond (r : Response) (s : State) : State := s.setResponse r

/-- The operation ends and returns nothing. -/
def finish (s : State) : Result := .next (respond .done s)

/-- A peripheral word read returns `v` and `WS_APB_R` wait states (41_bus.md R85). -/
def returnWord (v : Word) (s : State) : Result :=
  .next (respond (.value .word (v.setWidth 64) s.cfg.wsApbR) s)

/-- A peripheral word write returns `WS_APB_W` wait states (41_bus.md R86). -/
def returnWritten (s : State) : Result := .next (respond (.written s.cfg.wsApbW) s)

/-- TAKING AN EXCEPTION: a data access ends in `Exc(cause, MEM_EX_WS)`; no state of the core changes
(60_exceptions.md R154). -/
def busException (cause : Cause) (s : State) : Result :=
  .next (respond (.exception cause s.cfg.memExWs) s)

/-- A fetch ends in `Exc(cause)`; no state of the core changes (41_bus.md R90, 60_exceptions.md
R154). -/
def fetchException (cause : Cause) (s : State) : Result :=
  .next (respond (.fetchException cause) s)

/-! ## Interrupt latches (42_interrupt_controller.md R95 to R99) -/

/-- The latches change and the arbiter runs at once: when the asserted level differs, the CPU is
notified of the new one (R95). -/
def setLatches (ic : Ic) (s : State) : State :=
  (s.setIc ic).setNotices (if arb ic = irl s then s.notices else s.notices ++ [arb ic])

/-- The latch bit of a level. -/
def levelBit (l : Nat) : Half := 1#16 <<< l

/-- The latches after `irq_raise(L)` (R98): the pending bit is set. -/
def raisedIc (l : Nat) (c : Ic) : Ic := { c with pending := c.pending ||| levelBit l }

/-- `irq_raise(L)` for a level in 1..15 (R98). -/
def raise (l : Nat) (s : State) : State := setLatches (raisedIc l s.ic) s

/-- The latches after `ic_ack(L)` (R99): the forced bit is cleared if set, else the pending bit. -/
def acknowledgedIc (l : Nat) (c : Ic) : Ic :=
  if c.forced.getLsbD l then { c with forced := c.forced &&& ~~~levelBit l }
  else { c with pending := c.pending &&& ~~~levelBit l }

/-- `ic_ack(L)` for a level in 1..15 (R99). -/
def acknowledge (l : Nat) (s : State) : State := setLatches (acknowledgedIc l s.ic) s

/-- Levels are 1..15 (R98, R99). -/
def levelOk (l : Byte) : Bool := 1 ≤ l.toNat && l.toNat ≤ 15

/-! ## Timer channels (10_state.md R26) -/

/-- A channel's registers. -/
def channel (n : Chan) (s : State) : Channel :=
  match n with
  | .one => s.t1
  | .two => s.t2

/-- The state with a channel's registers replaced. -/
def setChannel (n : Chan) (c : Channel) (s : State) : State :=
  match n with
  | .one => s.setT1 c
  | .two => s.setT2 c

/-- A channel's interrupt level (R26). -/
def channelLevel (c : Config) : Chan → Nat
  | .one => c.irqT1
  | .two => c.irqT2

/-! ## The event queue (45_host_and_lifecycle.md R141 to R143) -/

/-- The four sources. -/
def Source.all : List Source := [.prescaler, .uartTx, .uartRxPoll, .uartFlush]

/-- The entry of a source. -/
def Queue.slot (q : Queue) : Source → Option Slot
  | .prescaler => q.prescaler
  | .uartTx => q.uartTx
  | .uartRxPoll => q.uartRxPoll
  | .uartFlush => q.uartFlush

/-- The queue with the entry of a source replaced or removed. -/
def Queue.put (q : Queue) (src : Source) (e : Option Slot) : Queue :=
  match src with
  | .prescaler => { q with prescaler := e }
  | .uartTx => { q with uartTx := e }
  | .uartRxPoll => { q with uartRxPoll := e }
  | .uartFlush => { q with uartFlush := e }

/-- The queue without entries. -/
def Queue.empty : Queue := ⟨none, none, none, none⟩

/-- Firing order: by due time, ties by schedule order (R143). -/
def Slot.before (x y : Slot) : Bool := x.due < y.due || (x.due == y.due && x.seq < y.seq)

/-- The earlier of the best entry so far and a source's entry. -/
def earlierOf (best : Option (Source × Slot)) (src : Source) (e : Option Slot) :
    Option (Source × Slot) :=
  match best, e with
  | best, none => best
  | none, some x => some (src, x)
  | some (b, y), some x => if x.before y then some (src, x) else some (b, y)

/-- The earliest entry of the queue (R143). -/
def Queue.earliest (q : Queue) : Option (Source × Slot) :=
  Source.all.foldl (fun best src => earlierOf best src (q.slot src)) none

/-- The state with another virtual time. -/
def setNow (t : Nat) (s : State) : State := s.setSched { s.sched with now := t }

/-- The state without a source's entry. -/
def dequeue (src : Source) (s : State) : State :=
  s.setSched { s.sched with queue := s.sched.queue.put src none }

/-- `Sched.schedule(src, d)`: the new entry replaces the source's old one (R142). -/
def schedule (src : Source) (d : Nat) (s : State) : State :=
  s.setSched
    { s.sched with
      queue := s.sched.queue.put src (some ⟨s.sched.now + d, s.sched.nextSeq⟩)
      nextSeq := s.sched.nextSeq + 1 }

/-- A new scaler is stored, the load time restamped and the prescaler event scheduled `scaler + 1`
ticks on (43_timer.md R110, R111; 70_reset_and_hazards.md R171, R173). -/
def loadPrescaler (v : Half) (s : State) : State :=
  schedule .prescaler (v.toNat + 1) (s.setPre ⟨v, s.sched.now⟩)

/-! ## The host's streams (45_host_and_lifecycle.md R147, R148) -/

/-- Whether a host read can return bytes at all (R147). -/
def hostListens (s : State) : Bool := s.host.kind != .disabled && s.host.inOpen

/-- The bytes `Host.read(max)` returns (R147): none when the input is closed or disabled; else the
first bytes of the next placed answer; else a free list of bytes. At most `max`. -/
def hostBytes (max : Nat) (s : State) : List Byte :=
  if hostListens s then
    match s.answers with
    | a :: _ => a.take max
    | [] => (Config.hostAnswer s.hostReads).take max
  else []

/-- The state after `Host.read(max)`: the bytes are taken from the input stream. What a placed
answer holds beyond `max` bytes stays first in the stream (log entry 6). -/
def hostAfterRead (max : Nat) (s : State) : State :=
  if hostListens s then
    match s.answers with
    | a :: rest => s.setAnswers (if a.drop max = [] then rest else a.drop max :: rest)
    | [] => s.setHostReads (s.hostReads + 1)
  else s

/-- `Host.write(bs)` (R148): appended when the output is open, else discarded. -/
def hostWrite (bs : List Byte) (s : State) : State :=
  s.setHost
    { s.host with
      emitted := if s.host.outOpen then s.host.emitted ++ bs else s.host.emitted }

/-- The buffered output is written to the host and emptied (44_uart.md R132, R133; R151). Writing an
empty buffer emits nothing. -/
def flushOutput (s : State) : State :=
  (hostWrite s.buf.outbuf s).setBuf { s.buf with outbuf := [] }

end Sys2Proof.Machine
end

