-- ==== Sys2Proof/Machine/Bus.lean ====
section
/-! DEFINITION. The address-space dispatcher's operations (41_bus.md): ROM and RAM data accesses,
accesses outside every window, peripheral accesses of a wrong width or an unassigned offset,
CACHE_CTRL, instruction fetch and bulk transfers. -/

namespace Sys2Proof.Machine

/-! ## ROM and RAM data accesses -/

/-- A data read of an array (R77, R78). -/
def readArray (sp : Space) (w : Width) (a : Addr) (ws : Nat) (s : State) : Result :=
  .next (respond (.value w (memRead sp s a w) ws) s)

/-- A data write of an array (R79, R80). -/
def writeArray (sp : Space) (w : Width) (a : Addr) (v : Double) (ws : Nat) (s : State) : Result :=
  .next (respond (.written ws) (memWrite sp a w v s))

/-- READ_RAM (R77). -/
def execReadRam (w : Width) (a : Addr) (s : State) : Result := readArray .ram w a s.cfg.wsRamR s

/-- READ_ROM (R78). -/
def execReadRom (w : Width) (a : Addr) (s : State) : Result := readArray .rom w a s.cfg.wsRomR s

/-- WRITE_RAM (R79). -/
def execWriteRam (w : Width) (a : Addr) (v : Double) (s : State) : Result :=
  writeArray .ram w a v s.cfg.wsRamW s

/-- WRITE_ROM (R80): BusException(ReadOnly) where ROM is not writable. -/
def execWriteRom (w : Width) (a : Addr) (v : Double) (s : State) : Result :=
  if s.cfg.romWritable then writeArray .rom w a v s.cfg.wsRomW s else busException .readOnly s

/-! ## Accesses without an answer -/

/-- READ_UNMAPPED (R81). -/
def execReadUnmapped (_w : Width) (_a : Addr) (s : State) : Result := busException .unmapped s

/-- WRITE_UNMAPPED (R82). -/
def execWriteUnmapped (_w : Width) (_a : Addr) (_v : Double) (s : State) : Result :=
  busException .unmapped s

/-- READ_APB_B (R84). -/
def execReadApbB (_a : Addr) (s : State) : Result := busException .badWidth s

/-- WRITE_APB_B (R83). -/
def execWriteApbB (_a : Addr) (_v : Byte) (s : State) : Result := busException .badWidth s

/-- READ_APB_H (R84). -/
def execReadApbH (_a : Addr) (s : State) : Result := busException .badWidth s

/-- WRITE_APB_H (R83). -/
def execWriteApbH (_a : Addr) (_v : Half) (s : State) : Result := busException .badWidth s

/-- READ_APB_D (R84). -/
def execReadApbD (_a : Addr) (s : State) : Result := busException .badWidth s

/-- WRITE_APB_D (R83). -/
def execWriteApbD (_a : Addr) (_v : Double) (s : State) : Result := busException .badWidth s

/-! ## Unassigned offsets and CACHE_CTRL -/

/-- READ_APB_UNASSIGNED (R87): any word. -/
def execReadApbUnassigned (_a : Addr) (s : State) : Result := returnWord (free s 32 0) (drew 1 s)

/-- WRITE_APB_UNASSIGNED (R87): refused. -/
def execWriteApbUnassigned (_a : Addr) (_v : Word) (_s : State) : Result :=
  .refused .unassignedRegister

/-- READ_CCR (R88). -/
def execReadCcr (s : State) : Result := returnWord s.ccr s

/-- WRITE_CCR (R89): stored, nothing else changes. -/
def execWriteCcr (v : Word) (s : State) : Result := returnWritten (s.setCcr v)

/-! ## Instruction fetch -/

/-- A fetch from an array: the big-endian word (R46, R90). -/
def fetchArray (sp : Space) (a : Addr) (s : State) : Result :=
  .next (respond (.fetched ((memRead sp s a .word).setWidth 32)) s)

/-- IFETCH_RAM (R90). -/
def execIfetchRam (a : Addr) (s : State) : Result := fetchArray .ram a s

/-- IFETCH_ROM (R90). -/
def execIfetchRom (a : Addr) (s : State) : Result := fetchArray .rom a s

/-- IFETCH_OTHER (R90): a fetch from the peripheral window or from nowhere. -/
def execIfetchOther (_a : Addr) (s : State) : Result := fetchException .unmapped s

/-! ## Bulk transfers -/

/-- BULK_READ (R91). An empty range returns the empty list wherever it lies. -/
def execBulkRead (a : Addr) (len : Nat) (s : State) : Result :=
  if len = 0 then .next (respond (.bytes []) s)
  else
    match rangeSpace s.cfg a len with
    | some sp => .next (respond (.bytes (bytesAt sp s (indexOf s.cfg sp a) len)) s)
    | none => .next (respond .bulkFailed s)

/-- BULK_WRITE (R92), whatever ROM_WRITABLE says. An empty list writes nothing wherever it goes. -/
def execBulkWrite (a : Addr) (bs : List Byte) (s : State) : Result :=
  if bs = [] then finish s
  else
    match rangeSpace s.cfg a bs.length with
    | some sp => finish (writeBytes sp (indexOf s.cfg sp a) bs s)
    | none => .next (respond .bulkFailed s)

end Sys2Proof.Machine
end

