-- ==== Sys2Proof/Machine/Interrupts.lean ====
section
/-! DEFINITION. The interrupt controller's calls and registers (42_interrupt_controller.md). -/

namespace Sys2Proof.Machine

/-! ## Calls -/

/-- IRQ_RAISE (R98). -/
def execIrqRaise (l : Byte) (s : State) : Result :=
  if levelOk l then finish (raise l.toNat s) else .refused .badLevel

/-- IRQ_ACK (R99). -/
def execIrqAck (l : Byte) (s : State) : Result :=
  if levelOk l then finish (acknowledge l.toNat s) else .refused .badLevel

/-- IRQ_POLL (R100). -/
def execIrqPoll (s : State) : Result := .next (respond (.level (irl s)) s)

/-- A raise by an external device (R98, R159): as IRQ_RAISE, but the CPU is answered nothing. -/
def deviceRaise (l : Byte) (s : State) : Result :=
  if levelOk l then .next (raise l.toNat s) else .refused .badLevel

/-! ## Register writes -/

/-- WRITE_IRQ_MASK (R101). -/
def execWriteIrqMask (v : Word) (s : State) : Result :=
  returnWritten (setLatches { s.ic with mask := low16 v } s)

/-- WRITE_IRQ_FORCE (R102). -/
def execWriteIrqForce (v : Word) (s : State) : Result :=
  returnWritten (setLatches { s.ic with forced := low16 v } s)

/-- WRITE_IRQ_CLEAR (R103). -/
def execWriteIrqClear (v : Word) (s : State) : Result :=
  returnWritten (setLatches { s.ic with pending := s.ic.pending &&& ~~~low16 v } s)

/-- WRITE_IRQ_PENDING (R104): refused. -/
def execWriteIrqPending (_v : Word) (_s : State) : Result := .refused .noWriteMeaning

/-! ## Register reads -/

/-- A 16-bit register read: its high half is drawn (R65). -/
def returnHalf (v : Half) (s : State) : Result := returnWord (halfWord (free s 16 0) v) (drew 1 s)

/-- READ_IRQ_MASK (R105). -/
def execReadIrqMask (s : State) : Result := returnHalf s.ic.mask s

/-- READ_IRQ_PENDING (R106). -/
def execReadIrqPending (s : State) : Result := returnHalf s.ic.pending s

/-- READ_IRQ_FORCE (R107). -/
def execReadIrqForce (s : State) : Result := returnHalf s.ic.forced s

/-- READ_IRQ_CLEAR (R108): any word. -/
def execReadIrqClear (s : State) : Result := returnWord (free s 32 0) (drew 1 s)

end Sys2Proof.Machine
end

