-- ==== Sys2Proof/Machine/Uart.lean ====
section
/-! DEFINITION. The UART in its two modes (44_uart.md). -/

namespace Sys2Proof.Machine

/-- The UART's interrupt (R126). -/
def raiseUart (s : State) : State := raise s.cfg.irqUart s

/-! ## Buffered mode -/

/-- The input buffer is refilled by one host read when it is empty (R131, R134). Positions past the
bytes read keep what they held. -/
def refill (s : State) : State :=
  if s.buf.inConsume = s.buf.inFill then
    let bs := hostBytes s.cfg.bufCap s
    (hostAfterRead s.cfg.bufCap s).setBuf
      { s.buf with
        inbuf := bs ++ s.buf.inbuf.drop bs.length
        inFill := bs.length
        inConsume := 0 }
  else s

/-- The input buffer's next byte; a position never written holds a free byte `d`
(log entry 10). -/
def nextByte (u : BufferedUart) (d : Byte) : Byte := (u.inbuf[u.inConsume]?).getD d

/-- Take the next byte; the receive interrupt is raised if more remain (R131). -/
def consumeByte (s : State) : State :=
  let s' := s.setBuf { s.buf with inConsume := s.buf.inConsume + 1 }
  if s'.buf.dataReady then raiseUart s' else s'

/-- A buffered data read (R131). With no byte available the word is any word. -/
def bufferedDataRead (s : State) : Result :=
  let s' := refill s
  let ready := s'.buf.dataReady
  returnWord
    (if ready then byteWord (free s 24 0) (nextByte s'.buf (free s 8 1)) else free s 32 0)
    (drew 2 (if ready then consumeByte s' else s'))

/-- A buffered data write (R132): a full buffer is flushed before the byte is appended; the
interrupt is raised on every write. -/
def bufferedDataWrite (v : Word) (s : State) : Result :=
  let s' := if s.buf.outbuf.length = s.cfg.bufCap then flushOutput s else s
  returnWritten (raiseUart (s'.setBuf { s'.buf with outbuf := s'.buf.outbuf ++ [low8 v] }))

/-- A buffered status read (R134): an empty buffer may be refilled, and the interrupt then raised or
not, as a drawn bit says. -/
def bufferedStatusRead (s : State) : Result :=
  let s' := refill s
  let arrived := s.buf.inConsume = s.buf.inFill ∧ s'.buf.dataReady
  let ic := if arrived ∧ freeBit s 0 then raisedIc s.cfg.irqUart s'.ic else s'.ic
  returnWord (bufferedStatus s.cfg s'.buf (free s 32 1)) (drew 2 (setLatches ic s'))

/-- The periodic flush (R133). -/
def flushEvent (s : State) : State :=
  schedule .uartFlush s.cfg.flushInterval (flushOutput s)

/-! ## Shift-register mode -/

/-- A shift-mode data write (R135). -/
def shiftDataWrite (v : Word) (s : State) : Result :=
  if s.shift.ts then
    returnWritten (schedule .uartTx s.cfg.txDelay
      (s.setShift { s.shift with shiftReg := low8 v, ts := false }))
  else returnWritten (s.setShift { s.shift with holdReg := low8 v, th := false })

/-- Transmit complete (R136). -/
def txEvent (s : State) : State :=
  let s1 := hostWrite [s.shift.shiftReg] s
  let s2 :=
    if s1.shift.th = false then
      schedule .uartTx s1.cfg.txDelay
        (s1.setShift { s1.shift with shiftReg := s1.shift.holdReg, th := true })
    else s1.setShift { s1.shift with ts := true }
  if s2.cfg.txCompleteIrq then raiseUart s2 else s2

/-- A received byte: overrun if the last one was not read (R137). -/
def receiveByte (b : Byte) (s : State) : State :=
  raiseUart (s.setShift { s.shift with rxData := b, dr := true, ov := s.shift.ov || s.shift.dr })

/-- Receive poll (R137). -/
def rxPollEvent (s : State) : State :=
  let s1 := hostAfterRead 1 s
  let s2 :=
    match hostBytes 1 s with
    | [] => s1
    | b :: _ => receiveByte b s1
  schedule .uartRxPoll s2.cfg.rxPollInterval s2

/-- A shift-mode data read (R138): data-ready is cleared, then overrun. -/
def shiftDataRead (s : State) : Result :=
  returnWord (byteWord (free s 24 0) s.shift.rxData)
    (drew 1 (s.setShift { s.shift with dr := false, ov := false }))

/-- A shift-mode status read (R139). -/
def shiftStatusRead (s : State) : Result :=
  returnWord (shiftStatus s.cfg s.shift (free s 32 0)) (drew 1 s)

/-! ## The operations -/

/-- READ_UART_DATA (R127). -/
def execReadUartData (s : State) : Result :=
  match s.cfg.uartMode with
  | .buffered => bufferedDataRead s
  | .shift => shiftDataRead s

/-- WRITE_UART_DATA (R128). -/
def execWriteUartData (v : Word) (s : State) : Result :=
  match s.cfg.uartMode with
  | .buffered => bufferedDataWrite v s
  | .shift => shiftDataWrite v s

/-- READ_UART_STATUS (R129). -/
def execReadUartStatus (s : State) : Result :=
  match s.cfg.uartMode with
  | .buffered => bufferedStatusRead s
  | .shift => shiftStatusRead s

/-- WRITE_UART_STATUS (R130): refused. -/
def execWriteUartStatus (_v : Word) (_s : State) : Result := .refused .noWriteMeaning

/-- EV_UART_TX (R136): the entry is removed and the event runs (45_host_and_lifecycle.md R143). In
buffered mode the fields do not exist (10_state.md R28). Log entries 11 and 12. -/
def execEvUartTx (s : State) : Result :=
  match s.cfg.uartMode with
  | .shift => finish (txEvent (dequeue .uartTx s))
  | .buffered => .refused .wrongUartMode

/-- EV_UART_RX_POLL (R137), likewise. -/
def execEvUartRxPoll (s : State) : Result :=
  match s.cfg.uartMode with
  | .shift => finish (rxPollEvent (dequeue .uartRxPoll s))
  | .buffered => .refused .wrongUartMode

/-- EV_UART_FLUSH (R133), of buffered mode only. -/
def execEvUartFlush (s : State) : Result :=
  match s.cfg.uartMode with
  | .buffered => finish (flushEvent (dequeue .uartFlush s))
  | .shift => .refused .wrongUartMode

end Sys2Proof.Machine
end

