-- ==== Sys2Proof/Machine/Lifecycle.lean ====
section
/-! DEFINITION. The lifecycle calls: `reset`, `boot_init` (70_reset_and_hazards.md R171, R173),
`init`, `halt`, `shutdown` (45_host_and_lifecycle.md R146, R149 to R152). -/

namespace Sys2Proof.Machine

/-! ## Reset -/

/-- What reset leaves of a channel: stopped, its registers drawn (R171). -/
def drawnChannel (counter reload : Word) : Channel := ⟨counter, reload, false, false⟩

/-- Reset of the buffered UART (R171): unflushed output is emitted or lost as a drawn bit says, both
buffers are empty, the first flush is scheduled. The input buffer's contents are unspecified. -/
def resetBuffered (emit : Bool) (s : State) : State :=
  schedule .uartFlush s.cfg.flushInterval
    ((hostWrite (if emit then s.buf.outbuf else []) s).setBuf ⟨[], 0, 0, []⟩)

/-- Reset of the shift-mode UART (R171): flags of an idle line, the three bytes drawn, the first
poll scheduled. -/
def resetShift (shiftReg holdReg rxData : Byte) (s : State) : State :=
  schedule .uartRxPoll s.cfg.rxPollInterval
    (s.setShift ⟨shiftReg, holdReg, rxData, false, true, true, false⟩)

/-- Reset of the UART in the selected mode. -/
def resetUart (emit : Bool) (shiftReg holdReg rxData : Byte) (s : State) : State :=
  match s.cfg.uartMode with
  | .buffered => resetBuffered emit s
  | .shift => resetShift shiftReg holdReg rxData s

/-- `reset()` in a phase that allows it (R171): latches 0, channels stopped, unspecified registers
drawn, the core's entries removed and the first ones scheduled. -/
def resetCore (s : State) : State :=
  let s1 := setLatches ⟨0, 0, 0⟩ s
  let s2 := (s1.setT1 (drawnChannel (free s 32 0) (free s 32 1))).setT2
    (drawnChannel (free s 32 2) (free s 32 3))
  let s3 := (s2.setCcr (free s 32 5)).setSched { s2.sched with queue := Queue.empty }
  let s4 := loadPrescaler (free s 16 4) s3
  drew 9 (resetUart (freeBit s 6) (free s 8 6) (free s 8 7) (free s 8 8) s4)

/-- RESET (R171). -/
def execReset (s : State) : Result :=
  if s.phase = .closed then .refused .reserved else finish (resetCore s)

/-! ## Init -/

/-- The binding of the host (R146, R149). `inFails`, `outFails` say whether opening or configuring a
stream failed; `interactive` whether standard input is an interactive terminal. Log entry 17. -/
def bindHost (kind : HostKind) (inFails outFails interactive : Bool) (h : HostPort) : HostPort :=
  let opened := kind != .disabled && !inFails
  { h with
    kind := kind
    inOpen := opened
    outOpen := !outFails
    rawSet := opened && (kind == .terminal || (kind == .stdio && interactive)) }

/-- INIT (R150): a second one is a ProtocolMisuse (R156). -/
def execInit (s : State) : Result :=
  if s.phase = .uninit then
    let s1 := s.setHost
      (bindHost s.cfg.hostKind (freeBit s 0) (freeBit s 1) (freeBit s 2) s.host)
    finish ((resetCore (drew 3 s1)).setPhase .ready)
  else .fault .protocolMisuse

/-! ## Boot -/

/-- `boot_init()` (R173), F = FREQ_MHZ: the prescaler as by a reload write of F - 1, channel 1
loaded with F - 1 and started. The mask is not changed. -/
def bootCore (s : State) : State :=
  let f := s.cfg.freqMhz - 1
  (loadPrescaler (BitVec.ofNat 16 f) s).setT1 ⟨BitVec.ofNat 32 f, BitVec.ofNat 32 f, true, true⟩

/-- BOOT_INIT (R173). -/
def execBootInit (s : State) : Result := finish (bootCore s)

/-! ## Halt and shutdown -/

/-- `halt()` (R151): the buffered output is flushed; nothing else changes. -/
def haltCore (s : State) : State :=
  match s.cfg.uartMode with
  | .buffered => flushOutput s
  | .shift => s

/-- HALT (R151). -/
def execHalt (s : State) : Result := finish (haltCore s)

/-- `shutdown()` from a phase that is not `closed` (R152). -/
def shutdownCore (s : State) : State :=
  let s' := haltCore s
  (s'.setHost { s'.host with rawSet := false, inOpen := false, outOpen := false }).setPhase .closed

/-- SHUTDOWN (R152): resources are released once. -/
def execShutdown (s : State) : Result :=
  if s.phase = .closed then finish s else finish (shutdownCore s)

end Sys2Proof.Machine
end

