-- ==== Sys2Proof/Machine/Timer.lean ====
section
/-! DEFINITION. The timer block: prescaler and two channels (43_timer.md). -/

namespace Sys2Proof.Machine

/-! ## Prescaler -/

/-- The remaining value `scaler - (now - loaded_at)`, or `d` where the event is due and has not
fired (R109). -/
def preRemaining (p : Prescaler) (now : Nat) (d : Half) : Half :=
  if now - p.loadedAt ≤ p.scaler.toNat then BitVec.ofNat 16 (p.scaler.toNat - (now - p.loadedAt))
  else d

/-- One decrement of a channel (R115). -/
def channelTick (n : Chan) (s : State) : State :=
  let c := channel n s
  if c.en = false then s
  else if c.counter = 0 then
    raise (channelLevel s.cfg n)
      (setChannel n { c with counter := if c.rl then c.reload else 0xFFFFFFFF } s)
  else setChannel n { c with counter := c.counter - 1 } s

/-- `on_tick()` at the current virtual time (R110): restamp, reschedule, then channel 1 and channel
2 (R116). -/
def prescalerEvent (s : State) : State :=
  channelTick .two (channelTick .one (loadPrescaler s.pre.scaler s))

/-- EV_PRESCALER (R110): the source's entry is removed and the event runs (45_host_and_lifecycle.md
R143). Log entry 11. -/
def execEvPrescaler (s : State) : Result := finish (prescalerEvent (dequeue .prescaler s))

/-- WRITE_PRE_RELOAD (R111). -/
def execWritePreReload (v : Word) (s : State) : Result := returnWritten (loadPrescaler (low16 v) s)

/-- WRITE_PRE_VALUE (R112): refused. -/
def execWritePreValue (_v : Word) (_s : State) : Result := .refused .noWriteMeaning

/-- READ_PRE_VALUE (R113). -/
def execReadPreValue (s : State) : Result :=
  returnWord (halfWord (free s 16 0) (preRemaining s.pre s.sched.now (free s 16 1))) (drew 2 s)

/-- READ_PRE_RELOAD (R114). -/
def execReadPreReload (s : State) : Result := returnHalf s.pre.scaler s

/-! ## Channel registers -/

/-- A counter write (R118). -/
def writeCounter (n : Chan) (v : Word) (s : State) : Result :=
  returnWritten (setChannel n { channel n s with counter := v } s)

/-- A reload write (R119). -/
def writeReload (n : Chan) (v : Word) (s : State) : Result :=
  returnWritten (setChannel n { channel n s with reload := v } s)

/-- A control write (R120). -/
def writeControl (n : Chan) (v : Word) (s : State) : Result :=
  returnWritten (setChannel n (controlWrite s.cfg (channel n s) v) s)

/-- A control read (R123). -/
def readControl (n : Chan) (s : State) : Result :=
  returnWord (controlWord s.cfg (channel n s) (free s 32 0)) (drew 1 s)

/-- WRITE_T1_COUNTER (R118). -/
def execWriteT1Counter (v : Word) (s : State) : Result := writeCounter .one v s

/-- WRITE_T2_COUNTER (R118). -/
def execWriteT2Counter (v : Word) (s : State) : Result := writeCounter .two v s

/-- WRITE_T1_RELOAD (R119). -/
def execWriteT1Reload (v : Word) (s : State) : Result := writeReload .one v s

/-- WRITE_T2_RELOAD (R119). -/
def execWriteT2Reload (v : Word) (s : State) : Result := writeReload .two v s

/-- WRITE_T1_CONTROL (R120). -/
def execWriteT1Control (v : Word) (s : State) : Result := writeControl .one v s

/-- WRITE_T2_CONTROL (R120). -/
def execWriteT2Control (v : Word) (s : State) : Result := writeControl .two v s

/-- READ_T1_COUNTER (R121). -/
def execReadT1Counter (s : State) : Result := returnWord s.t1.counter s

/-- READ_T2_COUNTER (R121). -/
def execReadT2Counter (s : State) : Result := returnWord s.t2.counter s

/-- READ_T1_RELOAD (R122). -/
def execReadT1Reload (s : State) : Result := returnWord s.t1.reload s

/-- READ_T2_RELOAD (R122). -/
def execReadT2Reload (s : State) : Result := returnWord s.t2.reload s

/-- READ_T1_CONTROL (R123). -/
def execReadT1Control (s : State) : Result := readControl .one s

/-- READ_T2_CONTROL (R123). -/
def execReadT2Control (s : State) : Result := readControl .two s

end Sys2Proof.Machine
end

