-- ==== Sys2Proof/Machine/Scheduler.lean ====
section
/-! DEFINITION. The event scheduler (45_host_and_lifecycle.md R143 to R145) and the wait for
interrupt (60_exceptions.md R170). -/

namespace Sys2Proof.Machine

/-! ## Firing -/

/-- The event rule of a source (R143). -/
def performEvent : Source → State → State
  | .prescaler => prescalerEvent
  | .uartTx => txEvent
  | .uartRxPoll => rxPollEvent
  | .uartFlush => flushEvent

/-- An entry fires: virtual time is its due time, the entry is removed, the rule runs (R143). -/
def fire (src : Source) (due : Nat) (s : State) : State :=
  performEvent src (dequeue src (setNow due s))

/-- One move of the scheduler (R144): the earliest entry fires when it is due now; when no entry is
due, one tick of virtual time passes; with an overdue entry neither is enabled. -/
def schedulerMove (s : State) : Result :=
  match s.sched.queue.earliest with
  | none => .next (setNow (s.sched.now + 1) s)
  | some (src, e) =>
    if e.due = s.sched.now then .next (fire src e.due s)
    else if e.due < s.sched.now then .fault .overdueEntry
    else .next (setNow (s.sched.now + 1) s)

/-! ## ADVANCE -/

/-- Fire the earliest entry while it is due at or before `T`, then set the time to `T` (R145). None
when the fuel does not reach. -/
def advanceTo : Nat → Nat → State → Option State
  | 0, _, _ => none
  | fuel + 1, T, s =>
    match s.sched.queue.earliest with
    | none => some (setNow T s)
    | some (src, e) =>
      if e.due ≤ T then advanceTo fuel T (fire src e.due s) else some (setNow T s)

/-- How many firings a source's entry can have up to `T`, when every delay is at least one tick. -/
def slotFirings (T : Nat) : Option Slot → Nat
  | none => 0
  | some e => T + 1 - e.due

/-- More steps than `advanceTo` can take: each firing moves its source's entry on by at least one
tick or removes it. -/
def advanceFuel (T : Nat) (q : Queue) : Nat :=
  slotFirings T q.prescaler + slotFirings T q.uartTx + slotFirings T q.uartRxPoll +
    slotFirings T q.uartFlush + 1

/-- ADVANCE (R145). -/
def execAdvance (t : Nat) (s : State) : Result :=
  let T := s.sched.now + t
  match advanceTo (advanceFuel T s.sched.queue) T s with
  | some s' => finish s'
  | none => .fault .advanceHang

/-! ## Wait for interrupt -/

/-- One turn of the wait (R170): done when a level is asserted; else the earliest entry fires, and
the wait is done if a level is asserted then. Log entry 13. -/
def waitTurn (s : State) : Result :=
  if irl s = 0 then
    match s.sched.queue.earliest with
    | none => .fault .waitHang
    | some (src, e) =>
      let s' := fire src e.due s
      if irl s' = 0 then .next (respond .noResult (s'.setWaiting true))
      else finish (s'.setWaiting false)
  else finish (s.setWaiting false)

/-- WAIT_FOR_INTERRUPT (R170): the first turn of the wait. The step makes the others. -/
def execWaitForInterrupt (s : State) : Result := waitTurn s

/-! ## What a step runs -/

/-- The scheduler's turn: a wait in progress goes on, else one scheduler move (R144, R170). -/
def schedulerTurn (s : State) : Result := if s.waiting then waitTurn s else schedulerMove s

/-- The refusal of a request that does not decode (R72, R50). -/
def refusalOf : Reject → Refusal
  | .reserved => .reserved
  | .misaligned => .misaligned

/-- The request a table word makes stands first in the inbox, and no wait is in progress. -/
def present (r : Request) (s : State) : State :=
  (s.setWaiting false).setInbox (.cpu r :: s.inbox)

end Sys2Proof.Machine
end

