-- ==== Sys2Proof/Machine/Dispatch.lean ====
section
/-! DEFINITION. One arm per operation (spec/opcode_table.json), each a direct call of its meaning. -/

namespace Sys2Proof.Machine

def exec (i : Instr) (s : State) : Host.Outcome State Fault Refusal :=
  match i with
  | .readRam w a => Sys2Proof.Machine.execReadRam w a s
  | .readRom w a => Sys2Proof.Machine.execReadRom w a s
  | .writeRam w a v => Sys2Proof.Machine.execWriteRam w a v s
  | .writeRom w a v => Sys2Proof.Machine.execWriteRom w a v s
  | .readUnmapped w a => Sys2Proof.Machine.execReadUnmapped w a s
  | .writeUnmapped w a v => Sys2Proof.Machine.execWriteUnmapped w a v s
  | .readApbB a => Sys2Proof.Machine.execReadApbB a s
  | .writeApbB a v => Sys2Proof.Machine.execWriteApbB a v s
  | .readApbH a => Sys2Proof.Machine.execReadApbH a s
  | .writeApbH a v => Sys2Proof.Machine.execWriteApbH a v s
  | .readApbD a => Sys2Proof.Machine.execReadApbD a s
  | .writeApbD a v => Sys2Proof.Machine.execWriteApbD a v s
  | .readIrqMask => Sys2Proof.Machine.execReadIrqMask s
  | .writeIrqMask v => Sys2Proof.Machine.execWriteIrqMask v s
  | .readIrqPending => Sys2Proof.Machine.execReadIrqPending s
  | .writeIrqPending v => Sys2Proof.Machine.execWriteIrqPending v s
  | .readIrqForce => Sys2Proof.Machine.execReadIrqForce s
  | .writeIrqForce v => Sys2Proof.Machine.execWriteIrqForce v s
  | .readIrqClear => Sys2Proof.Machine.execReadIrqClear s
  | .writeIrqClear v => Sys2Proof.Machine.execWriteIrqClear v s
  | .readPreValue => Sys2Proof.Machine.execReadPreValue s
  | .writePreValue v => Sys2Proof.Machine.execWritePreValue v s
  | .readPreReload => Sys2Proof.Machine.execReadPreReload s
  | .writePreReload v => Sys2Proof.Machine.execWritePreReload v s
  | .readT1Counter => Sys2Proof.Machine.execReadT1Counter s
  | .writeT1Counter v => Sys2Proof.Machine.execWriteT1Counter v s
  | .readT1Reload => Sys2Proof.Machine.execReadT1Reload s
  | .writeT1Reload v => Sys2Proof.Machine.execWriteT1Reload v s
  | .readT1Control => Sys2Proof.Machine.execReadT1Control s
  | .writeT1Control v => Sys2Proof.Machine.execWriteT1Control v s
  | .readT2Counter => Sys2Proof.Machine.execReadT2Counter s
  | .writeT2Counter v => Sys2Proof.Machine.execWriteT2Counter v s
  | .readT2Reload => Sys2Proof.Machine.execReadT2Reload s
  | .writeT2Reload v => Sys2Proof.Machine.execWriteT2Reload v s
  | .readT2Control => Sys2Proof.Machine.execReadT2Control s
  | .writeT2Control v => Sys2Proof.Machine.execWriteT2Control v s
  | .readUartData => Sys2Proof.Machine.execReadUartData s
  | .writeUartData v => Sys2Proof.Machine.execWriteUartData v s
  | .readUartStatus => Sys2Proof.Machine.execReadUartStatus s
  | .writeUartStatus v => Sys2Proof.Machine.execWriteUartStatus v s
  | .readCcr => Sys2Proof.Machine.execReadCcr s
  | .writeCcr v => Sys2Proof.Machine.execWriteCcr v s
  | .readApbUnassigned a => Sys2Proof.Machine.execReadApbUnassigned a s
  | .writeApbUnassigned a v => Sys2Proof.Machine.execWriteApbUnassigned a v s
  | .ifetchRam a => Sys2Proof.Machine.execIfetchRam a s
  | .ifetchRom a => Sys2Proof.Machine.execIfetchRom a s
  | .ifetchOther a => Sys2Proof.Machine.execIfetchOther a s
  | .irqRaise l => Sys2Proof.Machine.execIrqRaise l s
  | .irqAck l => Sys2Proof.Machine.execIrqAck l s
  | .irqPoll => Sys2Proof.Machine.execIrqPoll s
  | .evPrescaler => Sys2Proof.Machine.execEvPrescaler s
  | .evUartTx => Sys2Proof.Machine.execEvUartTx s
  | .evUartRxPoll => Sys2Proof.Machine.execEvUartRxPoll s
  | .evUartFlush => Sys2Proof.Machine.execEvUartFlush s
  | .init => Sys2Proof.Machine.execInit s
  | .reset => Sys2Proof.Machine.execReset s
  | .bootInit => Sys2Proof.Machine.execBootInit s
  | .halt => Sys2Proof.Machine.execHalt s
  | .shutdown => Sys2Proof.Machine.execShutdown s
  | .bulkRead a len => Sys2Proof.Machine.execBulkRead a len s
  | .bulkWrite a bs => Sys2Proof.Machine.execBulkWrite a bs s
  | .waitForInterrupt => Sys2Proof.Machine.execWaitForInterrupt s
  | .advance t => Sys2Proof.Machine.execAdvance t s

end Sys2Proof.Machine
end

