-- ==== Sys2Proof/Machine/Step.lean ====
section
/-! DEFINITION. One step of the core (45_host_and_lifecycle.md R144): the next move of the inbox, or
the scheduler's turn when the inbox is empty. -/

namespace Sys2Proof.Machine

/-- A configuration that R11 does not admit is refused, and one that breaks another constraint of R9
(log entry 1). An external device may raise a level at any
time (R98). The CPU's next operation runs unless a wait for interrupt is in progress, which halts
instruction issuance (60_exceptions.md R170). -/
def step (s : State) : Host.Outcome State Fault Refusal :=
  if s.cfg.admitted then
    match s.inbox with
    | [] => schedulerTurn s
    | .scheduler :: rest => schedulerTurn (s.setInbox rest)
    | .device l :: rest => deviceRaise l (s.setInbox rest)
    | .cpu r :: rest =>
      if s.waiting then waitTurn s
      else
        match decode s.cfg r with
        | .ok i => exec i (s.setInbox rest)
        | .rejected e => .refused (refusalOf e)
  else .refused .configNotAdmitted

/-- The state in which a word of spec/opcode_table.json is presented as the CPU's next operation,
its operands zero or empty. Log entry 2. -/
def State.withFetchWord (s : State) (_nbits w : Nat) : State := present (requestOfWord w) s

end Sys2Proof.Machine
end

