-- ==== Sys2Proof/WellFormed.lean ====
section
/-! DEFINITION. Which instructions a request can stand for in a configuration: the conditions of
spec/opcode_table.json's rows (the window, the alignment, the offset) and the size of a written
value (30_encoding.md R61). -/

namespace Sys2Proof

/-- A written value is of `8n` bits (R61). -/
def fitsWidth (w : Width) (v : Double) : Bool :=
  v.toNat < 2 ^ (8 * w.bytes)

/-- The condition of an instruction's row in spec/opcode_table.json. The rows of registers and of
calls have none but their own descriptor. -/
def Instr.wf (c : Config) : Instr → Bool
  | .readRam w a => aligned w a && windowOf c a.toNat == .ram
  | .readRom w a => aligned w a && windowOf c a.toNat == .rom
  | .writeRam w a v => aligned w a && windowOf c a.toNat == .ram && fitsWidth w v
  | .writeRom w a v => aligned w a && windowOf c a.toNat == .rom && fitsWidth w v
  | .readUnmapped w a => aligned w a && windowOf c a.toNat == .none
  | .writeUnmapped w a v => aligned w a && windowOf c a.toNat == .none && fitsWidth w v
  | .readApbB a => windowOf c a.toNat == .apb
  | .writeApbB a _ => windowOf c a.toNat == .apb
  | .readApbH a => aligned .half a && windowOf c a.toNat == .apb
  | .writeApbH a _ => aligned .half a && windowOf c a.toNat == .apb
  | .readApbD a => aligned .double a && windowOf c a.toNat == .apb
  | .writeApbD a _ => aligned .double a && windowOf c a.toNat == .apb
  | .readIrqMask => true
  | .writeIrqMask _ => true
  | .readIrqPending => true
  | .writeIrqPending _ => true
  | .readIrqForce => true
  | .writeIrqForce _ => true
  | .readIrqClear => true
  | .writeIrqClear _ => true
  | .readPreValue => true
  | .writePreValue _ => true
  | .readPreReload => true
  | .writePreReload _ => true
  | .readT1Counter => true
  | .writeT1Counter _ => true
  | .readT1Reload => true
  | .writeT1Reload _ => true
  | .readT1Control => true
  | .writeT1Control _ => true
  | .readT2Counter => true
  | .writeT2Counter _ => true
  | .readT2Reload => true
  | .writeT2Reload _ => true
  | .readT2Control => true
  | .writeT2Control _ => true
  | .readUartData => true
  | .writeUartData _ => true
  | .readUartStatus => true
  | .writeUartStatus _ => true
  | .readCcr => true
  | .writeCcr _ => true
  | .readApbUnassigned a => aligned .word a && windowOf c a.toNat == .apb &&
      registerAt c (a.toNat - c.apbBase) == none
  | .writeApbUnassigned a _ => aligned .word a && windowOf c a.toNat == .apb &&
      registerAt c (a.toNat - c.apbBase) == none
  | .ifetchRam a => aligned .word a && windowOf c a.toNat == .ram
  | .ifetchRom a => aligned .word a && windowOf c a.toNat == .rom
  | .ifetchOther a => aligned .word a &&
      (windowOf c a.toNat == .apb || windowOf c a.toNat == .none)
  | .irqRaise _ => true
  | .irqAck _ => true
  | .irqPoll => true
  | .evPrescaler => true
  | .evUartTx => true
  | .evUartRxPoll => true
  | .evUartFlush => true
  | .init => true
  | .reset => true
  | .bootInit => true
  | .halt => true
  | .shutdown => true
  | .bulkRead _ _ => true
  | .bulkWrite _ _ => true
  | .waitForInterrupt => true
  | .advance _ => true

end Sys2Proof
end

