-- ==== Sys2Proof/Laws/Decode.lean ====
section
/-! SUPPORT. The fields of a built descriptor are the ones it was built from (30_encoding.md R60), and
what an admitted configuration says of windows and offsets. -/

namespace Sys2Proof

/-! ## Descriptor fields -/

theorem toNat_accessDesc (k wc : BitVec 2) (a : Addr) :
    (accessDesc k wc a).toNat = 2 ^ 34 * k.toNat + 2 ^ 32 * wc.toNat + a.toNat := by
  have := k.isLt; have := wc.isLt; have := a.isLt
  simp only [accessDesc, BitVec.toNat_ofNat]
  omega

theorem toNat_callDesc (op : BitVec 24) (arg : Byte) :
    (callDesc op arg).toNat = 3 * 2 ^ 34 + 2 ^ 8 * op.toNat + arg.toNat := by
  have := op.isLt; have := arg.isLt
  simp only [callDesc, BitVec.toNat_ofNat]
  omega

@[simp] theorem descKind_accessDesc (k wc : BitVec 2) (a : Addr) :
    descKind (accessDesc k wc a) = k := by
  apply BitVec.eq_of_toNat_eq
  have h := toNat_accessDesc k wc a
  have := k.isLt; have := wc.isLt; have := a.isLt
  simp only [descKind, BitVec.extractLsb'_toNat, Nat.shiftRight_eq_div_pow]
  generalize (accessDesc k wc a).toNat = n at h ⊢
  omega

@[simp] theorem descWc_accessDesc (k wc : BitVec 2) (a : Addr) :
    descWc (accessDesc k wc a) = wc := by
  apply BitVec.eq_of_toNat_eq
  have h := toNat_accessDesc k wc a
  have := k.isLt; have := wc.isLt; have := a.isLt
  simp only [descWc, BitVec.extractLsb'_toNat, Nat.shiftRight_eq_div_pow]
  generalize (accessDesc k wc a).toNat = n at h ⊢
  omega

@[simp] theorem descAddr_accessDesc (k wc : BitVec 2) (a : Addr) :
    descAddr (accessDesc k wc a) = a := by
  apply BitVec.eq_of_toNat_eq
  have h := toNat_accessDesc k wc a
  have := k.isLt; have := wc.isLt; have := a.isLt
  simp only [descAddr, BitVec.extractLsb'_toNat, Nat.shiftRight_eq_div_pow]
  generalize (accessDesc k wc a).toNat = n at h ⊢
  omega

@[simp] theorem descKind_callDesc (op : BitVec 24) (arg : Byte) : descKind (callDesc op arg) = 3 := by
  apply BitVec.eq_of_toNat_eq
  have := op.isLt; have := arg.isLt
  simp only [descKind, BitVec.extractLsb'_toNat, toNat_callDesc, Nat.shiftRight_eq_div_pow]
  change _ = 3
  omega

@[simp] theorem descWc_callDesc (op : BitVec 24) (arg : Byte) : descWc (callDesc op arg) = 0 := by
  apply BitVec.eq_of_toNat_eq
  have := op.isLt; have := arg.isLt
  simp only [descWc, BitVec.extractLsb'_toNat, toNat_callDesc, Nat.shiftRight_eq_div_pow]
  change _ = 0
  omega

@[simp] theorem descOp_callDesc (op : BitVec 24) (arg : Byte) : descOp (callDesc op arg) = op := by
  apply BitVec.eq_of_toNat_eq
  have := op.isLt; have := arg.isLt
  simp only [descOp, BitVec.extractLsb'_toNat, toNat_callDesc, Nat.shiftRight_eq_div_pow]
  omega

@[simp] theorem descArg_callDesc (op : BitVec 24) (arg : Byte) : descArg (callDesc op arg) = arg := by
  apply BitVec.eq_of_toNat_eq
  have := op.isLt; have := arg.isLt
  simp only [descArg, BitVec.extractLsb'_toNat, toNat_callDesc, Nat.shiftRight_eq_div_pow]
  omega

@[simp] theorem ofCode_code (w : Width) : Width.ofCode w.code = w := by cases w <;> rfl

/-- The bytes a width code stands for are `1 << wc` (30_encoding.md R61). -/
theorem bytes_ofCode (wc : BitVec 2) : (Width.ofCode wc).bytes = 2 ^ wc.toNat := by
  revert wc; decide

/-- A value that fits its width is taken whole. -/
theorem truncateTo_of_fits {w : Width} {v : Double} (h : fitsWidth w v = true) :
    truncateTo w v = v := by
  simp only [fitsWidth, decide_eq_true_eq] at h
  apply BitVec.eq_of_toNat_eq
  simp only [truncateTo, BitVec.toNat_ofNat]
  have := v.isLt
  rw [Nat.mod_eq_of_lt h, Nat.mod_eq_of_lt this]

theorem fitsWidth_truncateTo (w : Width) (v : Double) : fitsWidth w (truncateTo w v) = true := by
  simp only [fitsWidth, truncateTo, BitVec.toNat_ofNat, decide_eq_true_eq]
  exact lt_of_le_of_lt (Nat.mod_le _ _) (Nat.mod_lt _ (by positivity))

/-! ## Calls and events -/

theorem eq_of_ite_some {α : Type} {p : Prop} [Decidable p] {x : α} {y : Option α} {i : α}
    (h : (if p then some x else y) = some i) : i = x ∨ y = some i := by
  split at h
  · exact .inl (Option.some.inj h).symm
  · exact .inr h

theorem isNone_ite_some {α : Type} {p : Prop} [Decidable p] {x : α} {y : Option α} :
    (if p then some x else y).isNone = true ↔ ¬p ∧ y.isNone = true := by
  split <;> simp [*]

/-- A call or event has no condition but its descriptor (30_encoding.md R62). -/
theorem decodeCall_wf {c : Config} {r : Request} {i : Instr} (h : decodeCall r = some i) :
    i.wf c = true := by
  unfold decodeCall at h
  dsimp only at h
  iterate 16
    rcases eq_of_ite_some h with rfl | h
    · rfl
  cases h

/-- The `op` values 30_encoding.md R62 lists. -/
theorem decodeCall_isNone (r : Request) :
    (decodeCall r).isNone = true ↔
      (descOp r.desc).toNat ∉
        [0x01, 0x02, 0x03, 0x10, 0x11, 0x12, 0x13, 0x20, 0x21, 0x22, 0x23, 0x24, 0x30, 0x31,
          0x40, 0x41] := by
  simp only [decodeCall, isNone_ite_some, List.mem_cons, List.not_mem_nil, or_false, not_or,
    Option.isNone_none, and_true]

/-! ## Windows and offsets of an admitted configuration -/

@[simp] theorem allHold_nil : allHold [] = true := rfl

@[simp] theorem allHold_cons (b : Bool) (bs : List Bool) :
    allHold (b :: bs) = (b && allHold bs) := rfl

/-- The windows of an admitted configuration are disjoint and end at or below 2^32 (00_scope.md R11). -/
theorem admitted_windows {c : Config} (h : c.admitted = true) :
    (c.romSize ≤ c.ramBase ∨ c.ramBase + c.ramSize ≤ 0) ∧
    (c.romSize ≤ c.apbBase ∨ c.apbBase + c.apbSize ≤ 0) ∧
    (c.ramBase + c.ramSize ≤ c.apbBase ∨ c.apbBase + c.apbSize ≤ c.ramBase) ∧
    c.romSize ≤ 2 ^ 32 ∧ c.ramBase + c.ramSize ≤ 2 ^ 32 ∧ c.apbBase + c.apbSize ≤ 2 ^ 32 := by
  simp only [Config.admitted, Config.windowsOk, disjointRanges, allHold_cons, allHold_nil,
    Bool.and_eq_true, Bool.or_eq_true, decide_eq_true_eq, beq_iff_eq] at h
  omega

theorem mem_regAll (r : Reg) : r ∈ Reg.all := by cases r <;> simp [Reg.all]

/-- Every register's word lies in the peripheral window at a multiple of 4 (00_scope.md R9). -/
theorem admitted_offset {c : Config} (h : c.admitted = true) (r : Reg) :
    c.offset r % 4 = 0 ∧ c.offset r + 4 ≤ c.apbSize := by
  simp only [Config.admitted, Config.offsetsOk, allHold_cons, Bool.and_eq_true, List.all_eq_true,
    decide_eq_true_eq, beq_iff_eq] at h
  exact h.2.1.2 r (mem_regAll r)

/-- No two registers share an offset (00_scope.md R9). -/
theorem admitted_offset_inj {c : Config} (h : c.admitted = true) {r r' : Reg}
    (he : c.offset r = c.offset r') : r = r' := by
  simp only [Config.admitted, Config.offsetsOk, allHold_cons, Bool.and_eq_true,
    decide_eq_true_eq] at h
  exact List.inj_on_of_nodup_map h.2.1.1 (mem_regAll r) (mem_regAll r') he

/-- Bit positions of a word are below 32, those of one word distinct (00_scope.md R9). -/
theorem admitted_bits {c : Config} (h : c.admitted = true) :
    c.bitEn < 32 ∧ c.bitRl < 32 ∧ c.bitLd < 32 ∧ [c.bitEn, c.bitRl, c.bitLd].Nodup ∧
    c.bitDr < 32 ∧ c.bitTs < 32 ∧ c.bitTh < 32 ∧ c.bitOv < 32 ∧
    [c.bitDr, c.bitTs, c.bitTh, c.bitOv].Nodup := by
  simp only [Config.admitted, Config.bitsOk, allHold_cons, allHold_nil, Bool.and_eq_true,
    decide_eq_true_eq] at h
  tauto

/-- Interrupt levels are 1..15 and distinct (00_scope.md R9). -/
theorem admitted_levels {c : Config} (h : c.admitted = true) :
    1 ≤ c.irqT1 ∧ c.irqT1 ≤ 15 ∧ 1 ≤ c.irqT2 ∧ c.irqT2 ≤ 15 ∧ 1 ≤ c.irqUart ∧ c.irqUart ≤ 15 ∧
    c.irqT1 ≠ c.irqT2 ∧ c.irqT1 ≠ c.irqUart ∧ c.irqT2 ≠ c.irqUart := by
  simp only [Config.admitted, Config.levelsOk, allHold_cons, allHold_nil, Bool.and_eq_true,
    decide_eq_true_eq, bne_iff_ne] at h
  tauto

/-- Capacity and delays are at least 1, F is in 1..65536 (00_scope.md R9). -/
theorem admitted_times {c : Config} (h : c.admitted = true) :
    1 ≤ c.bufCap ∧ 1 ≤ c.flushInterval ∧ 1 ≤ c.txDelay ∧ 1 ≤ c.rxPollInterval ∧
    1 ≤ c.freqMhz ∧ c.freqMhz ≤ 65536 := by
  simp only [Config.admitted, Config.timesOk, allHold_cons, allHold_nil, Bool.and_eq_true,
    decide_eq_true_eq] at h
  tauto

/-- The register found at a register's offset is that register. -/
theorem registerAt_offset {c : Config} (h : c.admitted = true) (r : Reg) :
    registerAt c (c.offset r) = some r := by
  unfold registerAt
  cases hf : Reg.all.find? (fun r' => c.offset r' == c.offset r) with
  | none => exact absurd (List.find?_eq_none.1 hf r (mem_regAll r)) (by simp)
  | some r' =>
    have := List.find?_some hf
    exact congrArg some (admitted_offset_inj h (by simpa using this))

/-- A register found at an offset has that offset. -/
theorem offset_of_registerAt {c : Config} {off : Nat} {r : Reg} (h : registerAt c off = some r) :
    c.offset r = off := by
  simpa using List.find?_some h

theorem admitted_apbBase {c : Config} (h : c.admitted = true) : c.apbBase % 8 = 0 := by
  simp only [Config.admitted, Config.windowsOk, allHold_cons, Bool.and_eq_true,
    decide_eq_true_eq, beq_iff_eq] at h
  tauto

theorem toNat_regAddr {c : Config} (h : c.admitted = true) (r : Reg) :
    (regAddr c r).toNat = c.apbBase + c.offset r := by
  have h1 := admitted_windows h
  have h2 := admitted_offset h r
  simp only [regAddr, BitVec.toNat_ofNat]
  omega

theorem aligned_regAddr {c : Config} (h : c.admitted = true) (r : Reg) :
    aligned .word (regAddr c r) = true := by
  have h1 := admitted_apbBase h
  have h2 := admitted_offset h r
  simp only [aligned, toNat_regAddr h, Width.bytes, beq_iff_eq]
  omega

theorem windowOf_regAddr {c : Config} (h : c.admitted = true) (r : Reg) :
    windowOf c (regAddr c r).toNat = .apb := by
  have h1 := admitted_windows h
  have h2 := admitted_offset h r
  rw [toNat_regAddr h]
  unfold windowOf
  rw [if_neg (by omega), if_pos (by omega)]

end Sys2Proof
end

