-- ==== Sys2Proof/Laws/State.lean ====
section
/-! SUPPORT. What each field of the state is after each update of a field. -/

namespace Sys2Proof.Machine

/-! ### setRom -/

section
variable (s : State) (x : Memory)

@[simp] theorem setRom_cfg : (s.setRom x).cfg = s.cfg := rfl
@[simp] theorem setRom_rom : (s.setRom x).rom = x := rfl
@[simp] theorem setRom_ram : (s.setRom x).ram = s.ram := rfl
@[simp] theorem setRom_ic : (s.setRom x).ic = s.ic := rfl
@[simp] theorem setRom_t1 : (s.setRom x).t1 = s.t1 := rfl
@[simp] theorem setRom_t2 : (s.setRom x).t2 = s.t2 := rfl
@[simp] theorem setRom_pre : (s.setRom x).pre = s.pre := rfl
@[simp] theorem setRom_buf : (s.setRom x).buf = s.buf := rfl
@[simp] theorem setRom_shift : (s.setRom x).shift = s.shift := rfl
@[simp] theorem setRom_ccr : (s.setRom x).ccr = s.ccr := rfl
@[simp] theorem setRom_sched : (s.setRom x).sched = s.sched := rfl
@[simp] theorem setRom_host : (s.setRom x).host = s.host := rfl
@[simp] theorem setRom_phase : (s.setRom x).phase = s.phase := rfl
@[simp] theorem setRom_waiting : (s.setRom x).waiting = s.waiting := rfl
@[simp] theorem setRom_response : (s.setRom x).response = s.response := rfl
@[simp] theorem setRom_notices : (s.setRom x).notices = s.notices := rfl
@[simp] theorem setRom_inbox : (s.setRom x).inbox = s.inbox := rfl
@[simp] theorem setRom_answers : (s.setRom x).answers = s.answers := rfl
@[simp] theorem setRom_hostReads : (s.setRom x).hostReads = s.hostReads := rfl
@[simp] theorem setRom_draws : (s.setRom x).draws = s.draws := rfl

end

/-! ### setRam -/

section
variable (s : State) (x : Memory)

@[simp] theorem setRam_cfg : (s.setRam x).cfg = s.cfg := rfl
@[simp] theorem setRam_rom : (s.setRam x).rom = s.rom := rfl
@[simp] theorem setRam_ram : (s.setRam x).ram = x := rfl
@[simp] theorem setRam_ic : (s.setRam x).ic = s.ic := rfl
@[simp] theorem setRam_t1 : (s.setRam x).t1 = s.t1 := rfl
@[simp] theorem setRam_t2 : (s.setRam x).t2 = s.t2 := rfl
@[simp] theorem setRam_pre : (s.setRam x).pre = s.pre := rfl
@[simp] theorem setRam_buf : (s.setRam x).buf = s.buf := rfl
@[simp] theorem setRam_shift : (s.setRam x).shift = s.shift := rfl
@[simp] theorem setRam_ccr : (s.setRam x).ccr = s.ccr := rfl
@[simp] theorem setRam_sched : (s.setRam x).sched = s.sched := rfl
@[simp] theorem setRam_host : (s.setRam x).host = s.host := rfl
@[simp] theorem setRam_phase : (s.setRam x).phase = s.phase := rfl
@[simp] theorem setRam_waiting : (s.setRam x).waiting = s.waiting := rfl
@[simp] theorem setRam_response : (s.setRam x).response = s.response := rfl
@[simp] theorem setRam_notices : (s.setRam x).notices = s.notices := rfl
@[simp] theorem setRam_inbox : (s.setRam x).inbox = s.inbox := rfl
@[simp] theorem setRam_answers : (s.setRam x).answers = s.answers := rfl
@[simp] theorem setRam_hostReads : (s.setRam x).hostReads = s.hostReads := rfl
@[simp] theorem setRam_draws : (s.setRam x).draws = s.draws := rfl

end

/-! ### setIc -/

section
variable (s : State) (x : Ic)

@[simp] theorem setIc_cfg : (s.setIc x).cfg = s.cfg := rfl
@[simp] theorem setIc_rom : (s.setIc x).rom = s.rom := rfl
@[simp] theorem setIc_ram : (s.setIc x).ram = s.ram := rfl
@[simp] theorem setIc_ic : (s.setIc x).ic = x := rfl
@[simp] theorem setIc_t1 : (s.setIc x).t1 = s.t1 := rfl
@[simp] theorem setIc_t2 : (s.setIc x).t2 = s.t2 := rfl
@[simp] theorem setIc_pre : (s.setIc x).pre = s.pre := rfl
@[simp] theorem setIc_buf : (s.setIc x).buf = s.buf := rfl
@[simp] theorem setIc_shift : (s.setIc x).shift = s.shift := rfl
@[simp] theorem setIc_ccr : (s.setIc x).ccr = s.ccr := rfl
@[simp] theorem setIc_sched : (s.setIc x).sched = s.sched := rfl
@[simp] theorem setIc_host : (s.setIc x).host = s.host := rfl
@[simp] theorem setIc_phase : (s.setIc x).phase = s.phase := rfl
@[simp] theorem setIc_waiting : (s.setIc x).waiting = s.waiting := rfl
@[simp] theorem setIc_response : (s.setIc x).response = s.response := rfl
@[simp] theorem setIc_notices : (s.setIc x).notices = s.notices := rfl
@[simp] theorem setIc_inbox : (s.setIc x).inbox = s.inbox := rfl
@[simp] theorem setIc_answers : (s.setIc x).answers = s.answers := rfl
@[simp] theorem setIc_hostReads : (s.setIc x).hostReads = s.hostReads := rfl
@[simp] theorem setIc_draws : (s.setIc x).draws = s.draws := rfl

end

/-! ### setT1 -/

section
variable (s : State) (x : Channel)

@[simp] theorem setT1_cfg : (s.setT1 x).cfg = s.cfg := rfl
@[simp] theorem setT1_rom : (s.setT1 x).rom = s.rom := rfl
@[simp] theorem setT1_ram : (s.setT1 x).ram = s.ram := rfl
@[simp] theorem setT1_ic : (s.setT1 x).ic = s.ic := rfl
@[simp] theorem setT1_t1 : (s.setT1 x).t1 = x := rfl
@[simp] theorem setT1_t2 : (s.setT1 x).t2 = s.t2 := rfl
@[simp] theorem setT1_pre : (s.setT1 x).pre = s.pre := rfl
@[simp] theorem setT1_buf : (s.setT1 x).buf = s.buf := rfl
@[simp] theorem setT1_shift : (s.setT1 x).shift = s.shift := rfl
@[simp] theorem setT1_ccr : (s.setT1 x).ccr = s.ccr := rfl
@[simp] theorem setT1_sched : (s.setT1 x).sched = s.sched := rfl
@[simp] theorem setT1_host : (s.setT1 x).host = s.host := rfl
@[simp] theorem setT1_phase : (s.setT1 x).phase = s.phase := rfl
@[simp] theorem setT1_waiting : (s.setT1 x).waiting = s.waiting := rfl
@[simp] theorem setT1_response : (s.setT1 x).response = s.response := rfl
@[simp] theorem setT1_notices : (s.setT1 x).notices = s.notices := rfl
@[simp] theorem setT1_inbox : (s.setT1 x).inbox = s.inbox := rfl
@[simp] theorem setT1_answers : (s.setT1 x).answers = s.answers := rfl
@[simp] theorem setT1_hostReads : (s.setT1 x).hostReads = s.hostReads := rfl
@[simp] theorem setT1_draws : (s.setT1 x).draws = s.draws := rfl

end

/-! ### setT2 -/

section
variable (s : State) (x : Channel)

@[simp] theorem setT2_cfg : (s.setT2 x).cfg = s.cfg := rfl
@[simp] theorem setT2_rom : (s.setT2 x).rom = s.rom := rfl
@[simp] theorem setT2_ram : (s.setT2 x).ram = s.ram := rfl
@[simp] theorem setT2_ic : (s.setT2 x).ic = s.ic := rfl
@[simp] theorem setT2_t1 : (s.setT2 x).t1 = s.t1 := rfl
@[simp] theorem setT2_t2 : (s.setT2 x).t2 = x := rfl
@[simp] theorem setT2_pre : (s.setT2 x).pre = s.pre := rfl
@[simp] theorem setT2_buf : (s.setT2 x).buf = s.buf := rfl
@[simp] theorem setT2_shift : (s.setT2 x).shift = s.shift := rfl
@[simp] theorem setT2_ccr : (s.setT2 x).ccr = s.ccr := rfl
@[simp] theorem setT2_sched : (s.setT2 x).sched = s.sched := rfl
@[simp] theorem setT2_host : (s.setT2 x).host = s.host := rfl
@[simp] theorem setT2_phase : (s.setT2 x).phase = s.phase := rfl
@[simp] theorem setT2_waiting : (s.setT2 x).waiting = s.waiting := rfl
@[simp] theorem setT2_response : (s.setT2 x).response = s.response := rfl
@[simp] theorem setT2_notices : (s.setT2 x).notices = s.notices := rfl
@[simp] theorem setT2_inbox : (s.setT2 x).inbox = s.inbox := rfl
@[simp] theorem setT2_answers : (s.setT2 x).answers = s.answers := rfl
@[simp] theorem setT2_hostReads : (s.setT2 x).hostReads = s.hostReads := rfl
@[simp] theorem setT2_draws : (s.setT2 x).draws = s.draws := rfl

end

/-! ### setPre -/

section
variable (s : State) (x : Prescaler)

@[simp] theorem setPre_cfg : (s.setPre x).cfg = s.cfg := rfl
@[simp] theorem setPre_rom : (s.setPre x).rom = s.rom := rfl
@[simp] theorem setPre_ram : (s.setPre x).ram = s.ram := rfl
@[simp] theorem setPre_ic : (s.setPre x).ic = s.ic := rfl
@[simp] theorem setPre_t1 : (s.setPre x).t1 = s.t1 := rfl
@[simp] theorem setPre_t2 : (s.setPre x).t2 = s.t2 := rfl
@[simp] theorem setPre_pre : (s.setPre x).pre = x := rfl
@[simp] theorem setPre_buf : (s.setPre x).buf = s.buf := rfl
@[simp] theorem setPre_shift : (s.setPre x).shift = s.shift := rfl
@[simp] theorem setPre_ccr : (s.setPre x).ccr = s.ccr := rfl
@[simp] theorem setPre_sched : (s.setPre x).sched = s.sched := rfl
@[simp] theorem setPre_host : (s.setPre x).host = s.host := rfl
@[simp] theorem setPre_phase : (s.setPre x).phase = s.phase := rfl
@[simp] theorem setPre_waiting : (s.setPre x).waiting = s.waiting := rfl
@[simp] theorem setPre_response : (s.setPre x).response = s.response := rfl
@[simp] theorem setPre_notices : (s.setPre x).notices = s.notices := rfl
@[simp] theorem setPre_inbox : (s.setPre x).inbox = s.inbox := rfl
@[simp] theorem setPre_answers : (s.setPre x).answers = s.answers := rfl
@[simp] theorem setPre_hostReads : (s.setPre x).hostReads = s.hostReads := rfl
@[simp] theorem setPre_draws : (s.setPre x).draws = s.draws := rfl

end

/-! ### setBuf -/

section
variable (s : State) (x : BufferedUart)

@[simp] theorem setBuf_cfg : (s.setBuf x).cfg = s.cfg := rfl
@[simp] theorem setBuf_rom : (s.setBuf x).rom = s.rom := rfl
@[simp] theorem setBuf_ram : (s.setBuf x).ram = s.ram := rfl
@[simp] theorem setBuf_ic : (s.setBuf x).ic = s.ic := rfl
@[simp] theorem setBuf_t1 : (s.setBuf x).t1 = s.t1 := rfl
@[simp] theorem setBuf_t2 : (s.setBuf x).t2 = s.t2 := rfl
@[simp] theorem setBuf_pre : (s.setBuf x).pre = s.pre := rfl
@[simp] theorem setBuf_buf : (s.setBuf x).buf = x := rfl
@[simp] theorem setBuf_shift : (s.setBuf x).shift = s.shift := rfl
@[simp] theorem setBuf_ccr : (s.setBuf x).ccr = s.ccr := rfl
@[simp] theorem setBuf_sched : (s.setBuf x).sched = s.sched := rfl
@[simp] theorem setBuf_host : (s.setBuf x).host = s.host := rfl
@[simp] theorem setBuf_phase : (s.setBuf x).phase = s.phase := rfl
@[simp] theorem setBuf_waiting : (s.setBuf x).waiting = s.waiting := rfl
@[simp] theorem setBuf_response : (s.setBuf x).response = s.response := rfl
@[simp] theorem setBuf_notices : (s.setBuf x).notices = s.notices := rfl
@[simp] theorem setBuf_inbox : (s.setBuf x).inbox = s.inbox := rfl
@[simp] theorem setBuf_answers : (s.setBuf x).answers = s.answers := rfl
@[simp] theorem setBuf_hostReads : (s.setBuf x).hostReads = s.hostReads := rfl
@[simp] theorem setBuf_draws : (s.setBuf x).draws = s.draws := rfl

end

/-! ### setShift -/

section
variable (s : State) (x : ShiftUart)

@[simp] theorem setShift_cfg : (s.setShift x).cfg = s.cfg := rfl
@[simp] theorem setShift_rom : (s.setShift x).rom = s.rom := rfl
@[simp] theorem setShift_ram : (s.setShift x).ram = s.ram := rfl
@[simp] theorem setShift_ic : (s.setShift x).ic = s.ic := rfl
@[simp] theorem setShift_t1 : (s.setShift x).t1 = s.t1 := rfl
@[simp] theorem setShift_t2 : (s.setShift x).t2 = s.t2 := rfl
@[simp] theorem setShift_pre : (s.setShift x).pre = s.pre := rfl
@[simp] theorem setShift_buf : (s.setShift x).buf = s.buf := rfl
@[simp] theorem setShift_shift : (s.setShift x).shift = x := rfl
@[simp] theorem setShift_ccr : (s.setShift x).ccr = s.ccr := rfl
@[simp] theorem setShift_sched : (s.setShift x).sched = s.sched := rfl
@[simp] theorem setShift_host : (s.setShift x).host = s.host := rfl
@[simp] theorem setShift_phase : (s.setShift x).phase = s.phase := rfl
@[simp] theorem setShift_waiting : (s.setShift x).waiting = s.waiting := rfl
@[simp] theorem setShift_response : (s.setShift x).response = s.response := rfl
@[simp] theorem setShift_notices : (s.setShift x).notices = s.notices := rfl
@[simp] theorem setShift_inbox : (s.setShift x).inbox = s.inbox := rfl
@[simp] theorem setShift_answers : (s.setShift x).answers = s.answers := rfl
@[simp] theorem setShift_hostReads : (s.setShift x).hostReads = s.hostReads := rfl
@[simp] theorem setShift_draws : (s.setShift x).draws = s.draws := rfl

end

/-! ### setCcr -/

section
variable (s : State) (x : Word)

@[simp] theorem setCcr_cfg : (s.setCcr x).cfg = s.cfg := rfl
@[simp] theorem setCcr_rom : (s.setCcr x).rom = s.rom := rfl
@[simp] theorem setCcr_ram : (s.setCcr x).ram = s.ram := rfl
@[simp] theorem setCcr_ic : (s.setCcr x).ic = s.ic := rfl
@[simp] theorem setCcr_t1 : (s.setCcr x).t1 = s.t1 := rfl
@[simp] theorem setCcr_t2 : (s.setCcr x).t2 = s.t2 := rfl
@[simp] theorem setCcr_pre : (s.setCcr x).pre = s.pre := rfl
@[simp] theorem setCcr_buf : (s.setCcr x).buf = s.buf := rfl
@[simp] theorem setCcr_shift : (s.setCcr x).shift = s.shift := rfl
@[simp] theorem setCcr_ccr : (s.setCcr x).ccr = x := rfl
@[simp] theorem setCcr_sched : (s.setCcr x).sched = s.sched := rfl
@[simp] theorem setCcr_host : (s.setCcr x).host = s.host := rfl
@[simp] theorem setCcr_phase : (s.setCcr x).phase = s.phase := rfl
@[simp] theorem setCcr_waiting : (s.setCcr x).waiting = s.waiting := rfl
@[simp] theorem setCcr_response : (s.setCcr x).response = s.response := rfl
@[simp] theorem setCcr_notices : (s.setCcr x).notices = s.notices := rfl
@[simp] theorem setCcr_inbox : (s.setCcr x).inbox = s.inbox := rfl
@[simp] theorem setCcr_answers : (s.setCcr x).answers = s.answers := rfl
@[simp] theorem setCcr_hostReads : (s.setCcr x).hostReads = s.hostReads := rfl
@[simp] theorem setCcr_draws : (s.setCcr x).draws = s.draws := rfl

end

/-! ### setSched -/

section
variable (s : State) (x : Sched)

@[simp] theorem setSched_cfg : (s.setSched x).cfg = s.cfg := rfl
@[simp] theorem setSched_rom : (s.setSched x).rom = s.rom := rfl
@[simp] theorem setSched_ram : (s.setSched x).ram = s.ram := rfl
@[simp] theorem setSched_ic : (s.setSched x).ic = s.ic := rfl
@[simp] theorem setSched_t1 : (s.setSched x).t1 = s.t1 := rfl
@[simp] theorem setSched_t2 : (s.setSched x).t2 = s.t2 := rfl
@[simp] theorem setSched_pre : (s.setSched x).pre = s.pre := rfl
@[simp] theorem setSched_buf : (s.setSched x).buf = s.buf := rfl
@[simp] theorem setSched_shift : (s.setSched x).shift = s.shift := rfl
@[simp] theorem setSched_ccr : (s.setSched x).ccr = s.ccr := rfl
@[simp] theorem setSched_sched : (s.setSched x).sched = x := rfl
@[simp] theorem setSched_host : (s.setSched x).host = s.host := rfl
@[simp] theorem setSched_phase : (s.setSched x).phase = s.phase := rfl
@[simp] theorem setSched_waiting : (s.setSched x).waiting = s.waiting := rfl
@[simp] theorem setSched_response : (s.setSched x).response = s.response := rfl
@[simp] theorem setSched_notices : (s.setSched x).notices = s.notices := rfl
@[simp] theorem setSched_inbox : (s.setSched x).inbox = s.inbox := rfl
@[simp] theorem setSched_answers : (s.setSched x).answers = s.answers := rfl
@[simp] theorem setSched_hostReads : (s.setSched x).hostReads = s.hostReads := rfl
@[simp] theorem setSched_draws : (s.setSched x).draws = s.draws := rfl

end

/-! ### setHost -/

section
variable (s : State) (x : HostPort)

@[simp] theorem setHost_cfg : (s.setHost x).cfg = s.cfg := rfl
@[simp] theorem setHost_rom : (s.setHost x).rom = s.rom := rfl
@[simp] theorem setHost_ram : (s.setHost x).ram = s.ram := rfl
@[simp] theorem setHost_ic : (s.setHost x).ic = s.ic := rfl
@[simp] theorem setHost_t1 : (s.setHost x).t1 = s.t1 := rfl
@[simp] theorem setHost_t2 : (s.setHost x).t2 = s.t2 := rfl
@[simp] theorem setHost_pre : (s.setHost x).pre = s.pre := rfl
@[simp] theorem setHost_buf : (s.setHost x).buf = s.buf := rfl
@[simp] theorem setHost_shift : (s.setHost x).shift = s.shift := rfl
@[simp] theorem setHost_ccr : (s.setHost x).ccr = s.ccr := rfl
@[simp] theorem setHost_sched : (s.setHost x).sched = s.sched := rfl
@[simp] theorem setHost_host : (s.setHost x).host = x := rfl
@[simp] theorem setHost_phase : (s.setHost x).phase = s.phase := rfl
@[simp] theorem setHost_waiting : (s.setHost x).waiting = s.waiting := rfl
@[simp] theorem setHost_response : (s.setHost x).response = s.response := rfl
@[simp] theorem setHost_notices : (s.setHost x).notices = s.notices := rfl
@[simp] theorem setHost_inbox : (s.setHost x).inbox = s.inbox := rfl
@[simp] theorem setHost_answers : (s.setHost x).answers = s.answers := rfl
@[simp] theorem setHost_hostReads : (s.setHost x).hostReads = s.hostReads := rfl
@[simp] theorem setHost_draws : (s.setHost x).draws = s.draws := rfl

end

/-! ### setPhase -/

section
variable (s : State) (x : Phase)

@[simp] theorem setPhase_cfg : (s.setPhase x).cfg = s.cfg := rfl
@[simp] theorem setPhase_rom : (s.setPhase x).rom = s.rom := rfl
@[simp] theorem setPhase_ram : (s.setPhase x).ram = s.ram := rfl
@[simp] theorem setPhase_ic : (s.setPhase x).ic = s.ic := rfl
@[simp] theorem setPhase_t1 : (s.setPhase x).t1 = s.t1 := rfl
@[simp] theorem setPhase_t2 : (s.setPhase x).t2 = s.t2 := rfl
@[simp] theorem setPhase_pre : (s.setPhase x).pre = s.pre := rfl
@[simp] theorem setPhase_buf : (s.setPhase x).buf = s.buf := rfl
@[simp] theorem setPhase_shift : (s.setPhase x).shift = s.shift := rfl
@[simp] theorem setPhase_ccr : (s.setPhase x).ccr = s.ccr := rfl
@[simp] theorem setPhase_sched : (s.setPhase x).sched = s.sched := rfl
@[simp] theorem setPhase_host : (s.setPhase x).host = s.host := rfl
@[simp] theorem setPhase_phase : (s.setPhase x).phase = x := rfl
@[simp] theorem setPhase_waiting : (s.setPhase x).waiting = s.waiting := rfl
@[simp] theorem setPhase_response : (s.setPhase x).response = s.response := rfl
@[simp] theorem setPhase_notices : (s.setPhase x).notices = s.notices := rfl
@[simp] theorem setPhase_inbox : (s.setPhase x).inbox = s.inbox := rfl
@[simp] theorem setPhase_answers : (s.setPhase x).answers = s.answers := rfl
@[simp] theorem setPhase_hostReads : (s.setPhase x).hostReads = s.hostReads := rfl
@[simp] theorem setPhase_draws : (s.setPhase x).draws = s.draws := rfl

end

/-! ### setWaiting -/

section
variable (s : State) (x : Bool)

@[simp] theorem setWaiting_cfg : (s.setWaiting x).cfg = s.cfg := rfl
@[simp] theorem setWaiting_rom : (s.setWaiting x).rom = s.rom := rfl
@[simp] theorem setWaiting_ram : (s.setWaiting x).ram = s.ram := rfl
@[simp] theorem setWaiting_ic : (s.setWaiting x).ic = s.ic := rfl
@[simp] theorem setWaiting_t1 : (s.setWaiting x).t1 = s.t1 := rfl
@[simp] theorem setWaiting_t2 : (s.setWaiting x).t2 = s.t2 := rfl
@[simp] theorem setWaiting_pre : (s.setWaiting x).pre = s.pre := rfl
@[simp] theorem setWaiting_buf : (s.setWaiting x).buf = s.buf := rfl
@[simp] theorem setWaiting_shift : (s.setWaiting x).shift = s.shift := rfl
@[simp] theorem setWaiting_ccr : (s.setWaiting x).ccr = s.ccr := rfl
@[simp] theorem setWaiting_sched : (s.setWaiting x).sched = s.sched := rfl
@[simp] theorem setWaiting_host : (s.setWaiting x).host = s.host := rfl
@[simp] theorem setWaiting_phase : (s.setWaiting x).phase = s.phase := rfl
@[simp] theorem setWaiting_waiting : (s.setWaiting x).waiting = x := rfl
@[simp] theorem setWaiting_response : (s.setWaiting x).response = s.response := rfl
@[simp] theorem setWaiting_notices : (s.setWaiting x).notices = s.notices := rfl
@[simp] theorem setWaiting_inbox : (s.setWaiting x).inbox = s.inbox := rfl
@[simp] theorem setWaiting_answers : (s.setWaiting x).answers = s.answers := rfl
@[simp] theorem setWaiting_hostReads : (s.setWaiting x).hostReads = s.hostReads := rfl
@[simp] theorem setWaiting_draws : (s.setWaiting x).draws = s.draws := rfl

end

/-! ### setResponse -/

section
variable (s : State) (x : Response)

@[simp] theorem setResponse_cfg : (s.setResponse x).cfg = s.cfg := rfl
@[simp] theorem setResponse_rom : (s.setResponse x).rom = s.rom := rfl
@[simp] theorem setResponse_ram : (s.setResponse x).ram = s.ram := rfl
@[simp] theorem setResponse_ic : (s.setResponse x).ic = s.ic := rfl
@[simp] theorem setResponse_t1 : (s.setResponse x).t1 = s.t1 := rfl
@[simp] theorem setResponse_t2 : (s.setResponse x).t2 = s.t2 := rfl
@[simp] theorem setResponse_pre : (s.setResponse x).pre = s.pre := rfl
@[simp] theorem setResponse_buf : (s.setResponse x).buf = s.buf := rfl
@[simp] theorem setResponse_shift : (s.setResponse x).shift = s.shift := rfl
@[simp] theorem setResponse_ccr : (s.setResponse x).ccr = s.ccr := rfl
@[simp] theorem setResponse_sched : (s.setResponse x).sched = s.sched := rfl
@[simp] theorem setResponse_host : (s.setResponse x).host = s.host := rfl
@[simp] theorem setResponse_phase : (s.setResponse x).phase = s.phase := rfl
@[simp] theorem setResponse_waiting : (s.setResponse x).waiting = s.waiting := rfl
@[simp] theorem setResponse_response : (s.setResponse x).response = x := rfl
@[simp] theorem setResponse_notices : (s.setResponse x).notices = s.notices := rfl
@[simp] theorem setResponse_inbox : (s.setResponse x).inbox = s.inbox := rfl
@[simp] theorem setResponse_answers : (s.setResponse x).answers = s.answers := rfl
@[simp] theorem setResponse_hostReads : (s.setResponse x).hostReads = s.hostReads := rfl
@[simp] theorem setResponse_draws : (s.setResponse x).draws = s.draws := rfl

end

/-! ### setNotices -/

section
variable (s : State) (x : List Nat)

@[simp] theorem setNotices_cfg : (s.setNotices x).cfg = s.cfg := rfl
@[simp] theorem setNotices_rom : (s.setNotices x).rom = s.rom := rfl
@[simp] theorem setNotices_ram : (s.setNotices x).ram = s.ram := rfl
@[simp] theorem setNotices_ic : (s.setNotices x).ic = s.ic := rfl
@[simp] theorem setNotices_t1 : (s.setNotices x).t1 = s.t1 := rfl
@[simp] theorem setNotices_t2 : (s.setNotices x).t2 = s.t2 := rfl
@[simp] theorem setNotices_pre : (s.setNotices x).pre = s.pre := rfl
@[simp] theorem setNotices_buf : (s.setNotices x).buf = s.buf := rfl
@[simp] theorem setNotices_shift : (s.setNotices x).shift = s.shift := rfl
@[simp] theorem setNotices_ccr : (s.setNotices x).ccr = s.ccr := rfl
@[simp] theorem setNotices_sched : (s.setNotices x).sched = s.sched := rfl
@[simp] theorem setNotices_host : (s.setNotices x).host = s.host := rfl
@[simp] theorem setNotices_phase : (s.setNotices x).phase = s.phase := rfl
@[simp] theorem setNotices_waiting : (s.setNotices x).waiting = s.waiting := rfl
@[simp] theorem setNotices_response : (s.setNotices x).response = s.response := rfl
@[simp] theorem setNotices_notices : (s.setNotices x).notices = x := rfl
@[simp] theorem setNotices_inbox : (s.setNotices x).inbox = s.inbox := rfl
@[simp] theorem setNotices_answers : (s.setNotices x).answers = s.answers := rfl
@[simp] theorem setNotices_hostReads : (s.setNotices x).hostReads = s.hostReads := rfl
@[simp] theorem setNotices_draws : (s.setNotices x).draws = s.draws := rfl

end

/-! ### setInbox -/

section
variable (s : State) (x : List Move)

@[simp] theorem setInbox_cfg : (s.setInbox x).cfg = s.cfg := rfl
@[simp] theorem setInbox_rom : (s.setInbox x).rom = s.rom := rfl
@[simp] theorem setInbox_ram : (s.setInbox x).ram = s.ram := rfl
@[simp] theorem setInbox_ic : (s.setInbox x).ic = s.ic := rfl
@[simp] theorem setInbox_t1 : (s.setInbox x).t1 = s.t1 := rfl
@[simp] theorem setInbox_t2 : (s.setInbox x).t2 = s.t2 := rfl
@[simp] theorem setInbox_pre : (s.setInbox x).pre = s.pre := rfl
@[simp] theorem setInbox_buf : (s.setInbox x).buf = s.buf := rfl
@[simp] theorem setInbox_shift : (s.setInbox x).shift = s.shift := rfl
@[simp] theorem setInbox_ccr : (s.setInbox x).ccr = s.ccr := rfl
@[simp] theorem setInbox_sched : (s.setInbox x).sched = s.sched := rfl
@[simp] theorem setInbox_host : (s.setInbox x).host = s.host := rfl
@[simp] theorem setInbox_phase : (s.setInbox x).phase = s.phase := rfl
@[simp] theorem setInbox_waiting : (s.setInbox x).waiting = s.waiting := rfl
@[simp] theorem setInbox_response : (s.setInbox x).response = s.response := rfl
@[simp] theorem setInbox_notices : (s.setInbox x).notices = s.notices := rfl
@[simp] theorem setInbox_inbox : (s.setInbox x).inbox = x := rfl
@[simp] theorem setInbox_answers : (s.setInbox x).answers = s.answers := rfl
@[simp] theorem setInbox_hostReads : (s.setInbox x).hostReads = s.hostReads := rfl
@[simp] theorem setInbox_draws : (s.setInbox x).draws = s.draws := rfl

end

/-! ### setAnswers -/

section
variable (s : State) (x : List (List Byte))

@[simp] theorem setAnswers_cfg : (s.setAnswers x).cfg = s.cfg := rfl
@[simp] theorem setAnswers_rom : (s.setAnswers x).rom = s.rom := rfl
@[simp] theorem setAnswers_ram : (s.setAnswers x).ram = s.ram := rfl
@[simp] theorem setAnswers_ic : (s.setAnswers x).ic = s.ic := rfl
@[simp] theorem setAnswers_t1 : (s.setAnswers x).t1 = s.t1 := rfl
@[simp] theorem setAnswers_t2 : (s.setAnswers x).t2 = s.t2 := rfl
@[simp] theorem setAnswers_pre : (s.setAnswers x).pre = s.pre := rfl
@[simp] theorem setAnswers_buf : (s.setAnswers x).buf = s.buf := rfl
@[simp] theorem setAnswers_shift : (s.setAnswers x).shift = s.shift := rfl
@[simp] theorem setAnswers_ccr : (s.setAnswers x).ccr = s.ccr := rfl
@[simp] theorem setAnswers_sched : (s.setAnswers x).sched = s.sched := rfl
@[simp] theorem setAnswers_host : (s.setAnswers x).host = s.host := rfl
@[simp] theorem setAnswers_phase : (s.setAnswers x).phase = s.phase := rfl
@[simp] theorem setAnswers_waiting : (s.setAnswers x).waiting = s.waiting := rfl
@[simp] theorem setAnswers_response : (s.setAnswers x).response = s.response := rfl
@[simp] theorem setAnswers_notices : (s.setAnswers x).notices = s.notices := rfl
@[simp] theorem setAnswers_inbox : (s.setAnswers x).inbox = s.inbox := rfl
@[simp] theorem setAnswers_answers : (s.setAnswers x).answers = x := rfl
@[simp] theorem setAnswers_hostReads : (s.setAnswers x).hostReads = s.hostReads := rfl
@[simp] theorem setAnswers_draws : (s.setAnswers x).draws = s.draws := rfl

end

/-! ### setHostReads -/

section
variable (s : State) (x : Nat)

@[simp] theorem setHostReads_cfg : (s.setHostReads x).cfg = s.cfg := rfl
@[simp] theorem setHostReads_rom : (s.setHostReads x).rom = s.rom := rfl
@[simp] theorem setHostReads_ram : (s.setHostReads x).ram = s.ram := rfl
@[simp] theorem setHostReads_ic : (s.setHostReads x).ic = s.ic := rfl
@[simp] theorem setHostReads_t1 : (s.setHostReads x).t1 = s.t1 := rfl
@[simp] theorem setHostReads_t2 : (s.setHostReads x).t2 = s.t2 := rfl
@[simp] theorem setHostReads_pre : (s.setHostReads x).pre = s.pre := rfl
@[simp] theorem setHostReads_buf : (s.setHostReads x).buf = s.buf := rfl
@[simp] theorem setHostReads_shift : (s.setHostReads x).shift = s.shift := rfl
@[simp] theorem setHostReads_ccr : (s.setHostReads x).ccr = s.ccr := rfl
@[simp] theorem setHostReads_sched : (s.setHostReads x).sched = s.sched := rfl
@[simp] theorem setHostReads_host : (s.setHostReads x).host = s.host := rfl
@[simp] theorem setHostReads_phase : (s.setHostReads x).phase = s.phase := rfl
@[simp] theorem setHostReads_waiting : (s.setHostReads x).waiting = s.waiting := rfl
@[simp] theorem setHostReads_response : (s.setHostReads x).response = s.response := rfl
@[simp] theorem setHostReads_notices : (s.setHostReads x).notices = s.notices := rfl
@[simp] theorem setHostReads_inbox : (s.setHostReads x).inbox = s.inbox := rfl
@[simp] theorem setHostReads_answers : (s.setHostReads x).answers = s.answers := rfl
@[simp] theorem setHostReads_hostReads : (s.setHostReads x).hostReads = x := rfl
@[simp] theorem setHostReads_draws : (s.setHostReads x).draws = s.draws := rfl

end

/-! ### setDraws -/

section
variable (s : State) (x : Nat)

@[simp] theorem setDraws_cfg : (s.setDraws x).cfg = s.cfg := rfl
@[simp] theorem setDraws_rom : (s.setDraws x).rom = s.rom := rfl
@[simp] theorem setDraws_ram : (s.setDraws x).ram = s.ram := rfl
@[simp] theorem setDraws_ic : (s.setDraws x).ic = s.ic := rfl
@[simp] theorem setDraws_t1 : (s.setDraws x).t1 = s.t1 := rfl
@[simp] theorem setDraws_t2 : (s.setDraws x).t2 = s.t2 := rfl
@[simp] theorem setDraws_pre : (s.setDraws x).pre = s.pre := rfl
@[simp] theorem setDraws_buf : (s.setDraws x).buf = s.buf := rfl
@[simp] theorem setDraws_shift : (s.setDraws x).shift = s.shift := rfl
@[simp] theorem setDraws_ccr : (s.setDraws x).ccr = s.ccr := rfl
@[simp] theorem setDraws_sched : (s.setDraws x).sched = s.sched := rfl
@[simp] theorem setDraws_host : (s.setDraws x).host = s.host := rfl
@[simp] theorem setDraws_phase : (s.setDraws x).phase = s.phase := rfl
@[simp] theorem setDraws_waiting : (s.setDraws x).waiting = s.waiting := rfl
@[simp] theorem setDraws_response : (s.setDraws x).response = s.response := rfl
@[simp] theorem setDraws_notices : (s.setDraws x).notices = s.notices := rfl
@[simp] theorem setDraws_inbox : (s.setDraws x).inbox = s.inbox := rfl
@[simp] theorem setDraws_answers : (s.setDraws x).answers = s.answers := rfl
@[simp] theorem setDraws_hostReads : (s.setDraws x).hostReads = s.hostReads := rfl
@[simp] theorem setDraws_draws : (s.setDraws x).draws = x := rfl

end

end Sys2Proof.Machine
end

