-- ==== Sys2Proof/Laws/Memory.lean ====
section
/-! SUPPORT. Memory: reads after writes, and that every operation keeps the canonical form. -/

namespace Sys2Proof.Machine

/-! ## One byte -/

theorem lookup_store_same (m : Memory) (i : Nat) (b : Byte) : (m.store i b).lookup i = some b := by
  induction m with
  | nil => simp [Memory.store, Memory.lookup]
  | cons e m ih =>
    obtain ⟨j, c⟩ := e
    simp only [Memory.store]
    split
    · simp [Memory.lookup]
    · split
      · simp [Memory.lookup]
      · rename_i h
        simp [Memory.lookup, ih, Ne.symm h]

theorem lookup_store_other (m : Memory) {i j : Nat} (b : Byte) (h : j ≠ i) :
    (m.store i b).lookup j = m.lookup j := by
  induction m with
  | nil => simp [Memory.store, Memory.lookup, Ne.symm h]
  | cons e m ih =>
    obtain ⟨k, c⟩ := e
    simp only [Memory.store]
    split
    · simp [Memory.lookup, Ne.symm h]
    · split
      · rename_i hk
        subst hk
        simp [Memory.lookup, Ne.symm h]
      · simp [Memory.lookup, ih]

/-! ## The canonical form -/

theorem mem_store {m : Memory} {i : Nat} {b : Byte} {e : Host.Cell} (h : e ∈ m.store i b) :
    e.1 = i ∨ e ∈ m := by
  induction m with
  | nil => simp [Memory.store] at h; simp [h]
  | cons f m ih =>
    obtain ⟨j, c⟩ := f
    simp only [Memory.store] at h
    split at h
    · simp only [List.mem_cons] at h ⊢
      rcases h with h | h | h <;> simp [h]
    · split at h
      · simp only [List.mem_cons] at h ⊢
        rcases h with h | h <;> simp [h]
      · simp only [List.mem_cons] at h ⊢
        rcases h with h | h
        · simp [h]
        · rcases ih h with h | h <;> simp [h]

theorem wf_iff (m : Memory) : m.wf = true ↔ (m.map Prod.fst).Pairwise (· < ·) := by
  simp [Memory.wf]

theorem store_wf {m : Memory} (i : Nat) (b : Byte) (h : m.wf = true) : (m.store i b).wf = true := by
  rw [wf_iff] at *
  induction m with
  | nil => simp [Memory.store]
  | cons e m ih =>
    obtain ⟨j, c⟩ := e
    simp only [List.map_cons, List.pairwise_cons] at h
    simp only [Memory.store]
    split
    · rename_i hij
      simp only [List.map_cons, List.pairwise_cons, List.mem_cons]
      exact ⟨by rintro k (rfl | hk); exacts [hij, hij.trans (h.1 k hk)], h⟩
    · split
      · rename_i hij
        subst hij
        simpa using h
      · simp only [List.map_cons, List.pairwise_cons]
        refine ⟨fun k hk => ?_, ih h.2⟩
        obtain ⟨e, he, rfl⟩ := List.mem_map.1 hk
        rcases mem_store he with h' | h'
        · omega
        · exact h.1 _ (List.mem_map.2 ⟨e, h', rfl⟩)

theorem storeAll_wf {m : Memory} (i : Nat) (bs : List Byte) (h : m.wf = true) :
    (m.storeAll i bs).wf = true := by
  induction bs generalizing m i with
  | nil => exact h
  | cons b bs ih => exact ih (i + 1) (store_wf i b h)

theorem store_below {m : Memory} {i n : Nat} (b : Byte) (h : m.below n = true) (hi : i < n) :
    (m.store i b).below n = true := by
  simp only [Memory.below, List.all_eq_true, decide_eq_true_eq] at *
  intro e he
  rcases mem_store he with h' | h'
  · omega
  · exact h e h'

theorem storeAll_below {m : Memory} {i n : Nat} (bs : List Byte) (h : m.below n = true)
    (hi : i + bs.length ≤ n) : (m.storeAll i bs).below n = true := by
  induction bs generalizing m i with
  | nil => exact h
  | cons b bs ih =>
    simp only [List.length_cons] at hi
    exact ih (store_below b h (by omega)) (by omega)

/-! ## Many bytes -/

theorem lookup_storeAll (m : Memory) (i : Nat) (bs : List Byte) (j : Nat) :
    (m.storeAll i bs).lookup j =
      if i ≤ j ∧ j < i + bs.length then bs[j - i]? else m.lookup j := by
  induction bs generalizing m i with
  | nil => simp [Memory.storeAll]
  | cons b bs ih =>
    rw [Memory.storeAll, ih]
    by_cases hj : j = i
    · subst hj
      simp [lookup_store_same]
    · rw [lookup_store_other _ _ hj]
      by_cases h : i + 1 ≤ j ∧ j < i + 1 + bs.length
      · obtain ⟨k, rfl⟩ : ∃ k, j = i + (k + 1) := ⟨j - i - 1, by omega⟩
        have h1 : i + (k + 1) - (i + 1) = k := by omega
        have h2 : i + (k + 1) - i = k + 1 := by omega
        rw [if_pos h, if_pos (by simp only [List.length_cons]; omega), h1, h2,
          List.getElem?_cons_succ]
      · rw [if_neg h, if_neg (by simp only [List.length_cons]; omega)]

/-! ## The two arrays -/

@[simp] theorem array_setArray (sp : Space) (m : Memory) (s : State) :
    array sp (setArray sp m s) = m := by cases sp <;> rfl

theorem array_setArray_other {sp sp' : Space} (m : Memory) (s : State) (h : sp' ≠ sp) :
    array sp' (setArray sp m s) = array sp' s := by
  cases sp <;> cases sp' <;> first | rfl | exact absurd rfl h

/-- The bytes of an array after a write: the written ones at their indices, the others as before. -/
theorem byteAt_writeBytes (sp : Space) (i : Nat) (bs : List Byte) (s : State) (j : Nat) :
    byteAt sp (writeBytes sp i bs s) j =
      if i ≤ j ∧ j < i + bs.length then bs.getD (j - i) 0 else byteAt sp s j := by
  simp only [byteAt, writeBytes, array_setArray, lookup_storeAll]
  split
  · rename_i h
    rw [List.getD_eq_getElem?_getD, List.getElem?_eq_getElem (by omega)]
    rfl
  · rfl

/-- A write to one array leaves the other as it was. -/
theorem byteAt_writeBytes_other {sp sp' : Space} (i : Nat) (bs : List Byte) (s : State) (j : Nat)
    (h : sp' ≠ sp) : byteAt sp' (writeBytes sp i bs s) j = byteAt sp' s j := by
  simp [byteAt, writeBytes, array_setArray_other _ _ h]

/-- A write keeps the canonical form. -/
theorem array_writeBytes_wf {sp : Space} (i : Nat) (bs : List Byte) {s : State}
    (h : (array sp s).wf = true) : (array sp (writeBytes sp i bs s)).wf = true := by
  simpa [writeBytes] using storeAll_wf i bs h

/-- A write inside the window lists nothing outside it. -/
theorem array_writeBytes_below {sp : Space} {i n : Nat} (bs : List Byte) {s : State}
    (h : (array sp s).below n = true) (hi : i + bs.length ≤ n) :
    (array sp (writeBytes sp i bs s)).below n = true := by
  simpa [writeBytes] using storeAll_below bs h hi

/-- The memory after reset is in canonical form. -/
theorem reset_memory_wf (sp : Space) : (array sp State.reset).wf = true := by cases sp <;> rfl

end Sys2Proof.Machine
end

