-- ==== Sys2Proof/Laws/Bus.lean ====
section
/-! SUPPORT. Big-endian values as sums (20_memory.md R46) and the array that holds a range (41_bus.md
R91, R92). -/

namespace Sys2Proof.Machine

/-- Shifting a byte in multiplies by 256 and adds, modulo 2^64. -/
theorem toNat_shiftIn (acc : Double) (b : Byte) :
    ((acc <<< 8) ||| b.setWidth 64).toNat = (acc.toNat * 256 + b.toNat) % 2 ^ 64 := by
  have hb := b.isLt
  have hd : (acc <<< 8) ||| b.setWidth 64 = (acc <<< 8) + b.setWidth 64 := by
    symm
    apply BitVec.add_eq_or_of_and_eq_zero
    apply BitVec.eq_of_getLsbD_eq
    intro i hi
    simp only [BitVec.getLsbD_and, BitVec.getLsbD_shiftLeft, BitVec.getLsbD_setWidth]
    by_cases h : i < 8
    · simp [h]
    · simp [BitVec.getLsbD_of_ge b i (by omega)]
  rw [hd]
  simp only [BitVec.toNat_add, BitVec.toNat_shiftLeft, BitVec.toNat_setWidth, Nat.shiftLeft_eq]
  omega

theorem toNat_foldl (bs : List Byte) (acc : Double) :
    BitVec.toNat (bs.foldl (fun (acc : Double) (b : Byte) => (acc <<< 8) ||| b.setWidth 64) acc) =
      bs.foldl (fun n b => (n * 256 + b.toNat) % 2 ^ 64) acc.toNat := by
  induction bs generalizing acc with
  | nil => rfl
  | cons b bs ih => simp only [List.foldl_cons, ih, toNat_shiftIn]

/-- A big-endian value is the sum of its bytes' weights (20_memory.md R46). -/
theorem toNat_beValue (w : Width) (f : Nat → Byte) :
    (beValue ((List.range w.bytes).map f)).toNat =
      ∑ k ∈ Finset.range w.bytes, (f k).toNat * 2 ^ (8 * (w.bytes - 1 - k)) := by
  have hb := fun k => (f k).isLt
  unfold beValue
  rw [toNat_foldl]
  cases w
  · have := hb 0
    simp [Width.bytes, List.range_succ]
    omega
  · have := hb 0; have := hb 1
    simp [Width.bytes, List.range_succ, Finset.sum_range_succ]
    omega
  · have := hb 0; have := hb 1; have := hb 2; have := hb 3
    simp [Width.bytes, List.range_succ, Finset.sum_range_succ]
    omega
  · have := hb 0; have := hb 1; have := hb 2; have := hb 3
    have := hb 4; have := hb 5; have := hb 6; have := hb 7
    simp [Width.bytes, List.range_succ, Finset.sum_range_succ]
    omega

/-- A range inside an array's window (41_bus.md R91, R92). -/
theorem rangeInside_iff (c : Config) (sp : Space) (a : Addr) (len : Nat) :
    rangeInside c sp a len = true ↔
      spaceBase c sp ≤ a.toNat ∧ a.toNat + len ≤ spaceBase c sp + spaceSize c sp := by
  simp only [rangeInside, Bool.and_eq_true, decide_eq_true_eq]

theorem rangeSpace_ram {c : Config} {a : Addr} {len : Nat}
    (h : c.ramBase ≤ a.toNat ∧ a.toNat + len ≤ c.ramBase + c.ramSize) :
    rangeSpace c a len = some .ram := by
  rw [rangeSpace, if_pos ((rangeInside_iff c .ram a len).2 h)]

theorem rangeSpace_rom {c : Config} {a : Addr} {len : Nat} (hc : c.admitted = true)
    (hl : 0 < len) (h : a.toNat + len ≤ c.romSize) : rangeSpace c a len = some .rom := by
  have hw := admitted_windows hc
  rw [rangeSpace, if_neg, if_pos]
  all_goals simp only [rangeInside_iff, spaceBase, spaceSize]; omega

theorem rangeSpace_none {c : Config} {a : Addr} {len : Nat}
    (h : ¬(c.ramBase ≤ a.toNat ∧ a.toNat + len ≤ c.ramBase + c.ramSize))
    (h' : ¬a.toNat + len ≤ c.romSize) : rangeSpace c a len = none := by
  rw [rangeSpace, if_neg, if_neg]
  all_goals simp only [rangeInside_iff, spaceBase, spaceSize]; omega

/-- The array found for a range holds all of it. -/
theorem rangeInside_of_rangeSpace {c : Config} {a : Addr} {len : Nat} {sp : Space}
    (h : rangeSpace c a len = some sp) : rangeInside c sp a len = true := by
  unfold rangeSpace at h
  split at h
  · cases h; assumption
  · split at h
    · cases h; assumption
    · cases h

end Sys2Proof.Machine
end

