-- ==== Sys2Proof/Laws/Ops.lean ====
section
/-! SUPPORT. What each shared operation does, said once: the state it leaves as one update of the
state it starts from. -/

namespace Sys2Proof.Machine

/-! ## Results -/

theorem drew_eq (n : Nat) (s : State) : drew n s = { s with draws := s.draws + n } := rfl

theorem respond_eq (r : Response) (s : State) : respond r s = { s with response := r } := rfl

theorem finish_eq (s : State) : finish s = .next { s with response := .done } := rfl

theorem returnWord_eq (v : Word) (s : State) :
    returnWord v s =
      .next { s with response := .value .word (v.setWidth 64) s.cfg.wsApbR } := rfl

theorem returnWritten_eq (s : State) :
    returnWritten s = .next { s with response := .written s.cfg.wsApbW } := rfl

theorem returnHalf_eq (v : Half) (s : State) :
    returnHalf v s =
      .next { s with
        draws := s.draws + 1
        response := .value .word ((halfWord (free s 16 0) v).setWidth 64) s.cfg.wsApbR } := rfl

/-- A BusException changes the answer and nothing else. -/
theorem busException_eq (c : Cause) (s : State) :
    busException c s = .next { s with response := .exception c s.cfg.memExWs } := rfl

theorem fetchException_eq (c : Cause) (s : State) :
    fetchException c s = .next { s with response := .fetchException c } := rfl

/-! ## Memory -/

theorem writeBytes_rom (i : Nat) (bs : List Byte) (s : State) :
    writeBytes .rom i bs s = { s with rom := s.rom.storeAll i bs } := rfl

theorem writeBytes_ram (i : Nat) (bs : List Byte) (s : State) :
    writeBytes .ram i bs s = { s with ram := s.ram.storeAll i bs } := rfl

@[simp] theorem length_beBytes (n : Nat) (v : Double) : (beBytes n v).length = n := by
  simp [beBytes]

@[simp] theorem length_bytesAt (sp : Space) (s : State) (i n : Nat) :
    (bytesAt sp s i n).length = n := by simp [bytesAt]

/-! ## Words of flags and of narrow registers -/

/-- One bit is put, the others stay. -/
theorem getLsbD_putBit (r : Word) (b : Bool) {i j : Nat} (hi : i < 32) (hj : j < 32) :
    (putBit r i b).getLsbD j = if i = j then b else r.getLsbD j := by
  unfold putBit
  by_cases h : i = j
  · subst h; cases b <;> simp [hi]
  · cases b <;> simp [hj, h] <;> (intro; omega)

/-- A 16-bit register stands in bits 15:0 of the word read (30_encoding.md R65). -/
@[simp] theorem extractLsb'_halfWord (d v : Half) : (halfWord d v).extractLsb' 0 16 = v := by
  apply BitVec.eq_of_getLsbD_eq
  intro i hi
  rw [BitVec.getLsbD_extractLsb']
  unfold halfWord
  rw [BitVec.getLsbD_append]
  simp [hi]

/-- A received byte stands in bits 7:0 of the word read (30_encoding.md R68). -/
@[simp] theorem extractLsb'_byteWord (d : BitVec 24) (b : Byte) :
    (byteWord d b).extractLsb' 0 8 = b := by
  apply BitVec.eq_of_getLsbD_eq
  intro i hi
  rw [BitVec.getLsbD_extractLsb']
  unfold byteWord
  rw [BitVec.getLsbD_append]
  simp [hi]

/-! ## Interrupt latches -/

/-- The notifications after the latches become `ic` (R95). -/
def noticesAfter (ic : Ic) (s : State) : List Nat :=
  if arb ic = irl s then s.notices else s.notices ++ [arb ic]

theorem setLatches_eq (ic : Ic) (s : State) :
    setLatches ic s = { s with ic := ic, notices := noticesAfter ic s } := rfl

/-- Latches that stay notify nobody. -/
theorem setLatches_same (s : State) : setLatches s.ic s = s := by
  simp [setLatches_eq, noticesAfter, irl]

theorem raise_eq (l : Nat) (s : State) :
    raise l s = { s with ic := raisedIc l s.ic, notices := noticesAfter (raisedIc l s.ic) s } := rfl

theorem acknowledge_eq (l : Nat) (s : State) :
    acknowledge l s =
      { s with
        ic := acknowledgedIc l s.ic
        notices := noticesAfter (acknowledgedIc l s.ic) s } := rfl

theorem getLsbD_levelBit (l b : Nat) :
    (levelBit l).getLsbD b = (decide (b < 16) && decide (b = l)) := by
  simp only [levelBit, BitVec.getLsbD_shiftLeft, BitVec.getLsbD_one]
  by_cases h1 : b < 16 <;> by_cases h2 : b = l <;> by_cases h3 : b < l <;> (simp [h1, h2, h3]; try omega)

/-- The last notification is the asserted level, if it was before. -/
theorem noticesAfter_last (ic : Ic) (s : State) (h : s.notices.getLast?.getD 0 = irl s) :
    (noticesAfter ic s).getLast?.getD 0 = arb ic := by
  unfold noticesAfter
  split
  · rw [h]; exact (by assumption : arb ic = irl s).symm
  · simp

/-- What the scan finds is active, or nothing is; and nothing above it is active. -/
theorem highestActive_spec (a : Half) (n : Nat) :
    highestActive a n ≤ n ∧
    (highestActive a n ≠ 0 → a.getLsbD (highestActive a n) = true) ∧
    ∀ l, highestActive a n < l → l ≤ n → a.getLsbD l = false := by
  induction n with
  | zero => exact ⟨le_rfl, fun h => absurd rfl h, fun l h1 h2 => absurd h1 (by simp [highestActive]; omega)⟩
  | succ n ih =>
    simp only [highestActive]
    split
    · rename_i h
      exact ⟨le_rfl, fun _ => h, fun l h1 h2 => absurd h1 (by omega)⟩
    · rename_i h
      refine ⟨by omega, ih.2.1, fun l h1 h2 => ?_⟩
      rcases Nat.lt_or_ge n l with h3 | h3
      · obtain rfl : l = n + 1 := by omega
        simpa using h
      · exact ih.2.2 l h1 h3

/-! ## Timer channels -/

@[simp] theorem channel_setChannel (n : Chan) (c : Channel) (s : State) :
    channel n (setChannel n c s) = c := by cases n <;> rfl

/-- A channel after one prescaler event (R115). -/
def tickedChannel (c : Channel) : Channel :=
  if c.en then
    { c with counter := if c.counter = 0 then (if c.rl then c.reload else 0xFFFFFFFF) else c.counter - 1 }
  else c

/-- The latches after one prescaler event of a channel (R115). -/
def tickedIc (l : Nat) (c : Channel) (ic : Ic) : Ic :=
  if c.en = true ∧ c.counter = 0 then raisedIc l ic else ic

/-- One decrement touches the channel, the pending latch and the notifications. -/
theorem channelTick_eq (n : Chan) (s : State) :
    channelTick n s =
      setChannel n (tickedChannel (channel n s))
        { s with
          ic := tickedIc (channelLevel s.cfg n) (channel n s) s.ic
          notices := noticesAfter (tickedIc (channelLevel s.cfg n) (channel n s) s.ic) s } := by
  cases n
  · by_cases h : s.t1.en = true <;> by_cases h0 : s.t1.counter = 0#32 <;>
      (simp [channelTick, tickedChannel, tickedIc, channel, setChannel, raise_eq, channelLevel,
        State.setT1, noticesAfter, irl, h, h0]; try rfl)
  · by_cases h : s.t2.en = true <;> by_cases h0 : s.t2.counter = 0#32 <;>
      (simp [channelTick, tickedChannel, tickedIc, channel, setChannel, raise_eq, channelLevel,
        State.setT2, noticesAfter, irl, h, h0]; try rfl)

/-! ## The event queue -/

@[simp] theorem slot_put_same (q : Queue) (src : Source) (e : Option Slot) :
    (q.put src e).slot src = e := by cases src <;> rfl

theorem slot_put_other (q : Queue) {src src' : Source} (e : Option Slot) (h : src' ≠ src) :
    (q.put src e).slot src' = q.slot src' := by
  cases src <;> cases src' <;> first | rfl | exact absurd rfl h

theorem setNow_eq (t : Nat) (s : State) : setNow t s = { s with sched := { s.sched with now := t } } :=
  rfl

theorem dequeue_eq (src : Source) (s : State) :
    dequeue src s = { s with sched := { s.sched with queue := s.sched.queue.put src none } } := rfl

theorem schedule_eq (src : Source) (d : Nat) (s : State) :
    schedule src d s =
      { s with
        sched :=
          { s.sched with
            queue := s.sched.queue.put src (some ⟨s.sched.now + d, s.sched.nextSeq⟩)
            nextSeq := s.sched.nextSeq + 1 } } := rfl

theorem loadPrescaler_eq (v : Half) (s : State) :
    loadPrescaler v s =
      { s with
        pre := ⟨v, s.sched.now⟩
        sched :=
          { s.sched with
            queue := s.sched.queue.put .prescaler
              (some ⟨s.sched.now + (v.toNat + 1), s.sched.nextSeq⟩)
            nextSeq := s.sched.nextSeq + 1 } } := rfl

/-! ## The prescaler event -/

@[simp] theorem tickedIc_forced (l : Nat) (c : Channel) (ic : Ic) :
    (tickedIc l c ic).forced = ic.forced := by
  unfold tickedIc
  split <;> rfl

@[simp] theorem tickedIc_mask (l : Nat) (c : Channel) (ic : Ic) :
    (tickedIc l c ic).mask = ic.mask := by
  unfold tickedIc
  split <;> rfl

/-- An underflow of an enabled channel sets its pending bit and no other (R115). -/
theorem getLsbD_tickedIc (l : Nat) (c : Channel) (ic : Ic) {b : Nat} (hb : b < 16) :
    (tickedIc l c ic).pending.getLsbD b =
      (ic.pending.getLsbD b || (decide (b = l) && c.en && decide (c.counter = 0))) := by
  unfold tickedIc
  by_cases h : c.en = true ∧ c.counter = 0
  · simp only [h, and_self, if_true, raisedIc, BitVec.getLsbD_or, getLsbD_levelBit, hb,
      decide_true, Bool.true_and, Bool.and_true]
  · have h' : (c.en && decide (c.counter = 0)) = false := by simpa using h
    rw [if_neg h, Bool.and_assoc, h', Bool.and_false, Bool.or_false]

/-- A prescaler event touches the prescaler, its entry, both channels, the pending latch and the
notifications (R110). -/
theorem prescalerEvent_eq (s : State) :
    prescalerEvent s =
      { s with
        pre := ⟨s.pre.scaler, s.sched.now⟩
        sched :=
          { s.sched with
            queue := s.sched.queue.put .prescaler
              (some ⟨s.sched.now + (s.pre.scaler.toNat + 1), s.sched.nextSeq⟩)
            nextSeq := s.sched.nextSeq + 1 }
        t1 := tickedChannel s.t1
        t2 := tickedChannel s.t2
        ic := tickedIc s.cfg.irqT2 s.t2 (tickedIc s.cfg.irqT1 s.t1 s.ic)
        notices := (prescalerEvent s).notices } := by
  simp only [prescalerEvent, channelTick_eq, loadPrescaler_eq]
  rfl

theorem channel_prescalerEvent (n : Chan) (s : State) :
    channel n (prescalerEvent s) = tickedChannel (channel n s) := by
  rw [prescalerEvent_eq]
  cases n <;> rfl

/-- The last notification is the asserted level after a prescaler event, if it was before. -/
theorem prescalerEvent_last (s : State) (h : s.notices.getLast?.getD 0 = irl s) :
    (prescalerEvent s).notices.getLast?.getD 0 = irl (prescalerEvent s) := by
  simp only [prescalerEvent, channelTick_eq, loadPrescaler_eq]
  exact noticesAfter_last _ _ (noticesAfter_last _ _ h)

/-! ## The host's streams -/

/-- What the host has received after `Host.write(bs)` (R148). -/
def emittedAfter (bs : List Byte) (h : HostPort) : List Byte :=
  if h.outOpen then h.emitted ++ bs else h.emitted

@[simp] theorem emittedAfter_nil (h : HostPort) : emittedAfter [] h = h.emitted := by
  simp [emittedAfter]

theorem hostWrite_eq (bs : List Byte) (s : State) :
    hostWrite bs s = { s with host := { s.host with emitted := emittedAfter bs s.host } } := rfl

theorem flushOutput_eq (s : State) :
    flushOutput s =
      { s with
        host := { s.host with emitted := emittedAfter s.buf.outbuf s.host }
        buf := { s.buf with outbuf := [] } } := rfl

theorem emittedAfter_prefix (bs : List Byte) (h : HostPort) : h.emitted <+: emittedAfter bs h := by
  unfold emittedAfter
  split
  · exact List.prefix_append _ _
  · exact List.prefix_rfl

/-- A host read returns at most `max` bytes (R147). -/
theorem hostBytes_length (max : Nat) (s : State) : (hostBytes max s).length ≤ max := by
  unfold hostBytes
  split
  · split <;> simp [List.length_take]
  · simp

/-- A host read takes from the input stream and touches nothing else. -/
theorem hostAfterRead_eq (max : Nat) (s : State) :
    hostAfterRead max s =
      { s with
        answers := (hostAfterRead max s).answers
        hostReads := (hostAfterRead max s).hostReads } := by
  unfold hostAfterRead
  split
  · split <;> rfl
  · rfl

/-! ## The UART -/

theorem raiseUart_eq (s : State) : raiseUart s = raise s.cfg.irqUart s := rfl

/-- The input buffer after it was refilled where empty (R131, R134). -/
def refilledBuf (s : State) : BufferedUart :=
  if s.buf.inConsume = s.buf.inFill then
    { s.buf with
      inbuf := hostBytes s.cfg.bufCap s ++ s.buf.inbuf.drop (hostBytes s.cfg.bufCap s).length
      inFill := (hostBytes s.cfg.bufCap s).length
      inConsume := 0 }
  else s.buf

/-- A refill touches the input buffer and the host's input stream. -/
theorem refill_eq (s : State) :
    refill s =
      { s with
        buf := refilledBuf s
        answers := (refill s).answers
        hostReads := (refill s).hostReads } := by
  unfold refill refilledBuf
  split
  · rw [hostAfterRead_eq]; rfl
  · rfl

/-- A refill takes its bytes from the host's input stream by one read when the buffer is empty, and
none otherwise (R131, R147). -/
theorem refill_hostIn (s : State) :
    (refill s).answers =
        (if s.buf.inConsume = s.buf.inFill then (hostAfterRead s.cfg.bufCap s).answers
        else s.answers) ∧
      (refill s).hostReads =
        (if s.buf.inConsume = s.buf.inFill then (hostAfterRead s.cfg.bufCap s).hostReads
        else s.hostReads) := by
  unfold refill
  split <;> exact ⟨rfl, rfl⟩

/-- What stands in the input buffer after a refill: the bytes read, then what was there (R131). -/
theorem refilledBuf_inbuf {s : State} (h : s.buf.inConsume = s.buf.inFill) (k : Nat) :
    (refilledBuf s).inbuf[k]? =
      if k < (hostBytes s.cfg.bufCap s).length then (hostBytes s.cfg.bufCap s)[k]?
      else s.buf.inbuf[k]? := by
  simp only [refilledBuf, if_pos h, List.getElem?_append, List.getElem?_drop]
  split
  · rfl
  · congr 1
    omega

/-- Taking a byte moves the read position, and raises the interrupt if more bytes remain (R131). -/
theorem consumeByte_eq (s : State) :
    consumeByte s =
      if s.buf.inConsume + 1 < s.buf.inFill then
        { s with
          buf := { s.buf with inConsume := s.buf.inConsume + 1 }
          ic := raisedIc s.cfg.irqUart s.ic
          notices := noticesAfter (raisedIc s.cfg.irqUart s.ic) s }
      else { s with buf := { s.buf with inConsume := s.buf.inConsume + 1 } } := by
  unfold consumeByte
  by_cases h : s.buf.inConsume + 1 < s.buf.inFill <;>
    (simp [State.setBuf, BufferedUart.dataReady, raiseUart_eq, raise_eq, h]; try rfl)

/-- The UART's shift-mode fields after transmit-complete (R136). -/
def sentShift (u : ShiftUart) : ShiftUart :=
  if u.th = false then { u with shiftReg := u.holdReg, th := true } else { u with ts := true }

/-- The latches after transmit-complete (R136). -/
def sentIc (s : State) : Ic :=
  if s.cfg.txCompleteIrq then raisedIc s.cfg.irqUart s.ic else s.ic

/-- The schedule after transmit-complete: another one when a byte was held (R136). -/
def sentSched (s : State) : Sched :=
  if s.shift.th = false then
    { s.sched with
      queue := s.sched.queue.put .uartTx (some ⟨s.sched.now + s.cfg.txDelay, s.sched.nextSeq⟩)
      nextSeq := s.sched.nextSeq + 1 }
  else s.sched

/-- Transmit-complete touches the host's output, the shift-mode fields, the schedule and the latches
(R136). -/
theorem txEvent_eq (s : State) :
    txEvent s =
      { s with
        host := { s.host with emitted := emittedAfter [s.shift.shiftReg] s.host }
        shift := sentShift s.shift
        sched := sentSched s
        ic := sentIc s
        notices := noticesAfter (sentIc s) s } := by
  by_cases h : s.shift.th = false <;> by_cases hi : s.cfg.txCompleteIrq = true <;>
    simp [txEvent, sentShift, sentSched, sentIc, hostWrite_eq, schedule_eq, State.setShift,
      raiseUart_eq, raise_eq, h, hi] <;> simp [noticesAfter, irl] <;> rfl

/-- A receive poll that gets no byte changes the schedule only; one that gets a byte stores it and
raises the interrupt (R137). -/
theorem rxPollEvent_eq (s : State) :
    rxPollEvent s =
      { s with
        answers := (hostAfterRead 1 s).answers
        hostReads := (hostAfterRead 1 s).hostReads
        shift :=
          match hostBytes 1 s with
          | [] => s.shift
          | b :: _ => { s.shift with rxData := b, dr := true, ov := s.shift.ov || s.shift.dr }
        ic :=
          match hostBytes 1 s with
          | [] => s.ic
          | _ :: _ => raisedIc s.cfg.irqUart s.ic
        notices :=
          match hostBytes 1 s with
          | [] => s.notices
          | _ :: _ => noticesAfter (raisedIc s.cfg.irqUart s.ic) s
        sched :=
          { s.sched with
            queue := s.sched.queue.put .uartRxPoll
              (some ⟨s.sched.now + s.cfg.rxPollInterval, s.sched.nextSeq⟩)
            nextSeq := s.sched.nextSeq + 1 } } := by
  unfold rxPollEvent
  cases h : hostBytes 1 s <;> simp only [] <;> rw [hostAfterRead_eq] <;>
    (simp only [schedule_eq, receiveByte, State.setShift, raiseUart_eq, raise_eq]; try rfl)

/-- The periodic flush writes and empties the output buffer and schedules the next one (R133). -/
theorem flushEvent_eq (s : State) :
    flushEvent s =
      { s with
        host := { s.host with emitted := emittedAfter s.buf.outbuf s.host }
        buf := { s.buf with outbuf := [] }
        sched :=
          { s.sched with
            queue := s.sched.queue.put .uartFlush
              (some ⟨s.sched.now + s.cfg.flushInterval, s.sched.nextSeq⟩)
            nextSeq := s.sched.nextSeq + 1 } } := by
  simp [flushEvent, flushOutput_eq, schedule_eq]

/-! ## Reset -/

/-- Reset in buffered mode (70_reset_and_hazards.md R171): latches 0, channels stopped, the prescaler
restamped, the unspecified registers drawn, both buffers empty, the pending output emitted or not, and
two entries: the prescaler's and the first flush. -/
theorem resetCore_buffered (s : State) (h : s.cfg.uartMode = .buffered) :
    resetCore s =
      { s with
        ic := ⟨0, 0, 0⟩
        notices := noticesAfter ⟨0, 0, 0⟩ s
        t1 := drawnChannel (free s 32 0) (free s 32 1)
        t2 := drawnChannel (free s 32 2) (free s 32 3)
        ccr := free s 32 5
        pre := ⟨free s 16 4, s.sched.now⟩
        sched :=
          { now := s.sched.now
            queue :=
              { prescaler := some ⟨s.sched.now + ((free s 16 4).toNat + 1), s.sched.nextSeq⟩
                uartTx := none
                uartRxPoll := none
                uartFlush := some ⟨s.sched.now + s.cfg.flushInterval, s.sched.nextSeq + 1⟩ }
            nextSeq := s.sched.nextSeq + 2 }
        host :=
          { s.host with
            emitted := if freeBit s 6 then emittedAfter s.buf.outbuf s.host else s.host.emitted }
        buf := ⟨[], 0, 0, []⟩
        draws := s.draws + 9 } := by
  simp only [resetCore, setLatches_eq, loadPrescaler_eq, State.setT1, State.setT2, State.setCcr,
    State.setSched, resetUart, h, resetBuffered, hostWrite_eq, schedule_eq, State.setBuf, drew_eq]
  cases freeBit s 6 <;> simp [Queue.put, Queue.empty]

/-- Reset in shift mode (70_reset_and_hazards.md R171): as in buffered mode, but the UART's part is an
idle line and the second entry the first receive poll. -/
theorem resetCore_shift (s : State) (h : s.cfg.uartMode = .shift) :
    resetCore s =
      { s with
        ic := ⟨0, 0, 0⟩
        notices := noticesAfter ⟨0, 0, 0⟩ s
        t1 := drawnChannel (free s 32 0) (free s 32 1)
        t2 := drawnChannel (free s 32 2) (free s 32 3)
        ccr := free s 32 5
        pre := ⟨free s 16 4, s.sched.now⟩
        sched :=
          { now := s.sched.now
            queue :=
              { prescaler := some ⟨s.sched.now + ((free s 16 4).toNat + 1), s.sched.nextSeq⟩
                uartTx := none
                uartRxPoll := some ⟨s.sched.now + s.cfg.rxPollInterval, s.sched.nextSeq + 1⟩
                uartFlush := none }
            nextSeq := s.sched.nextSeq + 2 }
        shift := ⟨free s 8 6, free s 8 7, free s 8 8, false, true, true, false⟩
        draws := s.draws + 9 } := by
  simp only [resetCore, setLatches_eq, loadPrescaler_eq, State.setT1, State.setT2, State.setCcr,
    State.setSched, resetUart, h, resetShift, schedule_eq, State.setShift, drew_eq]
  rfl

end Sys2Proof.Machine
end

