-- ==== Sys2Proof/Laws/PerInstr.lean ====
section
/-! SUPPORT. Statements about every instruction as syntax, one lemma per constructor: no instruction
is encoded by a descriptor that 30_encoding.md R72 reserves. -/

namespace Sys2Proof.Laws.Descriptor

/-- No configuration encodes the instruction in a reserved descriptor (R72). -/
def Statement (i : Instr) : Prop := ∀ c : Config, reservedRequest (encode c i) = false

theorem reserved_read (w : Width) (a : Addr) : reservedRequest (readRequest w a) = false := by
  cases w <;> simp [reservedRequest, readRequest]

theorem reserved_write (w : Width) (a : Addr) (v : Double) :
    reservedRequest (writeRequest w a v) = false := by
  cases w <;> simp [reservedRequest, writeRequest]

theorem reserved_fetch (a : Addr) : reservedRequest { desc := accessDesc 2 2 a } = false := by
  simp [reservedRequest]

theorem readRam (w : Width) (a : Addr) : Statement (.readRam w a) := fun _ => reserved_read _ _
theorem readRom (w : Width) (a : Addr) : Statement (.readRom w a) := fun _ => reserved_read _ _
theorem writeRam (w : Width) (a : Addr) (v : Double) : Statement (.writeRam w a v) :=
  fun _ => reserved_write _ _ _
theorem writeRom (w : Width) (a : Addr) (v : Double) : Statement (.writeRom w a v) :=
  fun _ => reserved_write _ _ _
theorem readUnmapped (w : Width) (a : Addr) : Statement (.readUnmapped w a) :=
  fun _ => reserved_read _ _
theorem writeUnmapped (w : Width) (a : Addr) (v : Double) : Statement (.writeUnmapped w a v) :=
  fun _ => reserved_write _ _ _
theorem readApbB (a : Addr) : Statement (.readApbB a) := fun _ => reserved_read _ _
theorem writeApbB (a : Addr) (v : Byte) : Statement (.writeApbB a v) :=
  fun _ => reserved_write _ _ _
theorem readApbH (a : Addr) : Statement (.readApbH a) := fun _ => reserved_read _ _
theorem writeApbH (a : Addr) (v : Half) : Statement (.writeApbH a v) :=
  fun _ => reserved_write _ _ _
theorem readApbD (a : Addr) : Statement (.readApbD a) := fun _ => reserved_read _ _
theorem writeApbD (a : Addr) (v : Double) : Statement (.writeApbD a v) :=
  fun _ => reserved_write _ _ _
theorem readIrqMask : Statement .readIrqMask := fun _ => reserved_read _ _
theorem writeIrqMask (v : Word) : Statement (.writeIrqMask v) := fun _ => reserved_write _ _ _
theorem readIrqPending : Statement .readIrqPending := fun _ => reserved_read _ _
theorem writeIrqPending (v : Word) : Statement (.writeIrqPending v) := fun _ => reserved_write _ _ _
theorem readIrqForce : Statement .readIrqForce := fun _ => reserved_read _ _
theorem writeIrqForce (v : Word) : Statement (.writeIrqForce v) := fun _ => reserved_write _ _ _
theorem readIrqClear : Statement .readIrqClear := fun _ => reserved_read _ _
theorem writeIrqClear (v : Word) : Statement (.writeIrqClear v) := fun _ => reserved_write _ _ _
theorem readPreValue : Statement .readPreValue := fun _ => reserved_read _ _
theorem writePreValue (v : Word) : Statement (.writePreValue v) := fun _ => reserved_write _ _ _
theorem readPreReload : Statement .readPreReload := fun _ => reserved_read _ _
theorem writePreReload (v : Word) : Statement (.writePreReload v) := fun _ => reserved_write _ _ _
theorem readT1Counter : Statement .readT1Counter := fun _ => reserved_read _ _
theorem writeT1Counter (v : Word) : Statement (.writeT1Counter v) := fun _ => reserved_write _ _ _
theorem readT1Reload : Statement .readT1Reload := fun _ => reserved_read _ _
theorem writeT1Reload (v : Word) : Statement (.writeT1Reload v) := fun _ => reserved_write _ _ _
theorem readT1Control : Statement .readT1Control := fun _ => reserved_read _ _
theorem writeT1Control (v : Word) : Statement (.writeT1Control v) := fun _ => reserved_write _ _ _
theorem readT2Counter : Statement .readT2Counter := fun _ => reserved_read _ _
theorem writeT2Counter (v : Word) : Statement (.writeT2Counter v) := fun _ => reserved_write _ _ _
theorem readT2Reload : Statement .readT2Reload := fun _ => reserved_read _ _
theorem writeT2Reload (v : Word) : Statement (.writeT2Reload v) := fun _ => reserved_write _ _ _
theorem readT2Control : Statement .readT2Control := fun _ => reserved_read _ _
theorem writeT2Control (v : Word) : Statement (.writeT2Control v) := fun _ => reserved_write _ _ _
theorem readUartData : Statement .readUartData := fun _ => reserved_read _ _
theorem writeUartData (v : Word) : Statement (.writeUartData v) := fun _ => reserved_write _ _ _
theorem readUartStatus : Statement .readUartStatus := fun _ => reserved_read _ _
theorem writeUartStatus (v : Word) : Statement (.writeUartStatus v) := fun _ => reserved_write _ _ _
theorem readCcr : Statement .readCcr := fun _ => reserved_read _ _
theorem writeCcr (v : Word) : Statement (.writeCcr v) := fun _ => reserved_write _ _ _
theorem readApbUnassigned (a : Addr) : Statement (.readApbUnassigned a) :=
  fun _ => reserved_read _ _
theorem writeApbUnassigned (a : Addr) (v : Word) : Statement (.writeApbUnassigned a v) :=
  fun _ => reserved_write _ _ _
theorem ifetchRam (a : Addr) : Statement (.ifetchRam a) := fun _ => reserved_fetch a
theorem ifetchRom (a : Addr) : Statement (.ifetchRom a) := fun _ => reserved_fetch a
theorem ifetchOther (a : Addr) : Statement (.ifetchOther a) := fun _ => reserved_fetch a
theorem irqRaise (l : Byte) : Statement (.irqRaise l) :=
  fun _ => by simp [encode, reservedRequest, decodeCall]
theorem irqAck (l : Byte) : Statement (.irqAck l) :=
  fun _ => by simp [encode, reservedRequest, decodeCall]
theorem irqPoll : Statement .irqPoll :=
  fun _ => by simp [encode, callRequest, reservedRequest, decodeCall]
theorem evPrescaler : Statement .evPrescaler :=
  fun _ => by simp [encode, callRequest, reservedRequest, decodeCall]
theorem evUartTx : Statement .evUartTx :=
  fun _ => by simp [encode, callRequest, reservedRequest, decodeCall]
theorem evUartRxPoll : Statement .evUartRxPoll :=
  fun _ => by simp [encode, callRequest, reservedRequest, decodeCall]
theorem evUartFlush : Statement .evUartFlush :=
  fun _ => by simp [encode, callRequest, reservedRequest, decodeCall]
theorem init : Statement .init :=
  fun _ => by simp [encode, callRequest, reservedRequest, decodeCall]
theorem reset : Statement .reset :=
  fun _ => by simp [encode, callRequest, reservedRequest, decodeCall]
theorem bootInit : Statement .bootInit :=
  fun _ => by simp [encode, callRequest, reservedRequest, decodeCall]
theorem halt : Statement .halt :=
  fun _ => by simp [encode, callRequest, reservedRequest, decodeCall]
theorem shutdown : Statement .shutdown :=
  fun _ => by simp [encode, callRequest, reservedRequest, decodeCall]
theorem bulkRead (a : Addr) (len : Nat) : Statement (.bulkRead a len) :=
  fun _ => by simp [encode, reservedRequest, decodeCall]
theorem bulkWrite (a : Addr) (bs : List Byte) : Statement (.bulkWrite a bs) :=
  fun _ => by simp [encode, reservedRequest, decodeCall]
theorem waitForInterrupt : Statement .waitForInterrupt :=
  fun _ => by simp [encode, callRequest, reservedRequest, decodeCall]
theorem advance (t : Nat) : Statement (.advance t) :=
  fun _ => by simp [encode, reservedRequest, decodeCall]

end Sys2Proof.Laws.Descriptor
end

