-- ==== Sys2Proof/Laws/Step.lean ====
section
/-! SUPPORT. What an event rule leaves alone, and everything a turn of the wait, a scheduler move, an
ADVANCE and a step can do when they answer a next state. -/

namespace Sys2Proof.Machine

/-! ## Events -/

/-- What no event rule changes: it runs at one virtual time, and it touches no memory, no CACHE_CTRL,
no lifecycle phase and nothing of the CPU's side. -/
structure EventFrame (s t : State) : Prop where
  cfg : t.cfg = s.cfg
  rom : t.rom = s.rom
  ram : t.ram = s.ram
  ccr : t.ccr = s.ccr
  phase : t.phase = s.phase
  waiting : t.waiting = s.waiting
  response : t.response = s.response
  inbox : t.inbox = s.inbox
  draws : t.draws = s.draws
  now : t.sched.now = s.sched.now
  inOpen : t.host.inOpen = s.host.inOpen
  outOpen : t.host.outOpen = s.host.outOpen
  emitted : s.host.emitted <+: t.host.emitted

theorem performEvent_frame (src : Source) (s : State) : EventFrame s (performEvent src s) := by
  cases src <;> simp only [performEvent]
  · rw [prescalerEvent_eq]
    constructor <;> rfl
  · rw [txEvent_eq]
    constructor <;> first | rfl | exact emittedAfter_prefix _ _ | (unfold sentSched; split <;> rfl)
  · rw [rxPollEvent_eq]
    constructor <;> rfl
  · rw [flushEvent_eq]
    constructor <;> first | rfl | exact emittedAfter_prefix _ _

/-- A firing happens at the entry's due time (R143). -/
theorem fire_now (src : Source) (due : Nat) (s : State) : (fire src due s).sched.now = due :=
  (performEvent_frame src (dequeue src (setNow due s))).now

/-- A firing leaves alone what its event rule does, the time apart. -/
theorem fire_frame (src : Source) (due : Nat) (s : State) :
    EventFrame (dequeue src (setNow due s)) (fire src due s) :=
  performEvent_frame src (dequeue src (setNow due s))

/-! ## Scheduler and wait -/

/-- A scheduler move fires the earliest entry when it is due now, or lets one tick pass (R144). -/
theorem schedulerMove_cases {s t : State} (h : schedulerMove s = .next t) :
    (∃ src e, s.sched.queue.earliest = some (src, e) ∧ e.due = s.sched.now ∧
      t = fire src e.due s) ∨
    (t = setNow (s.sched.now + 1) s ∧
      (s.sched.queue.earliest = none ∨
        ∃ src e, s.sched.queue.earliest = some (src, e) ∧ s.sched.now < e.due)) := by
  unfold schedulerMove at h
  split at h
  · rename_i he
    cases h
    exact .inr ⟨rfl, .inl he⟩
  · rename_i src e he
    split at h
    · rename_i hd
      cases h
      exact .inl ⟨src, e, he, hd, rfl⟩
    · split at h
      · cases h
      · cases h
        exact .inr ⟨rfl, .inr ⟨src, e, he, by omega⟩⟩

/-- A turn of the wait ends it, or fires the earliest entry and then ends it or goes on (R170). -/
theorem waitTurn_cases {s t : State} (h : waitTurn s = .next t) :
    (irl s ≠ 0 ∧ t = respond .done (s.setWaiting false)) ∨
    ∃ src e, irl s = 0 ∧ s.sched.queue.earliest = some (src, e) ∧
      ((irl (fire src e.due s) ≠ 0 ∧ t = respond .done ((fire src e.due s).setWaiting false)) ∨
        (irl (fire src e.due s) = 0 ∧
          t = respond .noResult ((fire src e.due s).setWaiting true))) := by
  unfold waitTurn at h
  split at h
  · rename_i h0
    split at h
    · cases h
    · rename_i src e he
      refine .inr ⟨src, e, h0, he, ?_⟩
      simp only at h
      split at h
      · rename_i h1
        cases h
        exact .inr ⟨h1, rfl⟩
      · rename_i h1
        cases h
        exact .inl ⟨h1, rfl⟩
  · rename_i h0
    cases h
    exact .inl ⟨h0, rfl⟩

/-- Whatever every firing up to `T` keeps holds before the last time step of ADVANCE, where no entry
is due at or before `T` (R145). -/
theorem advanceTo_induct {P : State → Prop} {T : Nat}
    (hf : ∀ u src e, P u → u.sched.queue.earliest = some (src, e) → e.due ≤ T →
      P (fire src e.due u)) :
    ∀ (fuel : Nat) (s t : State), P s → advanceTo fuel T s = some t →
      ∃ u, P u ∧ t = setNow T u ∧
        (u.sched.queue.earliest = none ∨
          ∃ src e, u.sched.queue.earliest = some (src, e) ∧ T < e.due)
  | 0, _, _, _, h => by cases h
  | fuel + 1, s, t, hs, h => by
    unfold advanceTo at h
    split at h
    · rename_i he
      cases h
      exact ⟨s, hs, rfl, .inl he⟩
    · rename_i src e he
      split at h
      · rename_i hd
        exact advanceTo_induct hf fuel _ t (hf s src e hs he hd) h
      · rename_i hd
        cases h
        exact ⟨s, hs, rfl, .inr ⟨src, e, he, by omega⟩⟩

/-- An answer ADVANCE reaches with some fuel it reaches with more. -/
theorem advanceTo_fuel {T : Nat} :
    ∀ {fuel more : Nat} {s t : State}, fuel ≤ more → advanceTo fuel T s = some t →
      advanceTo more T s = some t
  | 0, _, _, _, _, h => by cases h
  | fuel + 1, 0, _, _, hle, _ => by omega
  | fuel + 1, more + 1, s, t, hle, h => by
    unfold advanceTo at h ⊢
    split at h
    · exact h
    · split at h
      · rename_i hd
        rw [if_pos hd]
        exact advanceTo_fuel (by omega) h
      · rename_i hd
        rw [if_neg hd]
        exact h

/-- In an admitted configuration a firing lowers the bound on the firings that remain up to `T`: every
delay is at least one tick (R142, R145). -/
theorem advanceFuel_fire {T : Nat} {src : Source} {e : Slot} {s : State}
    (ha : s.cfg.admitted = true) (he : s.sched.queue.slot src = some e) (hd : e.due ≤ T) :
    advanceFuel T (fire src e.due s).sched.queue < advanceFuel T s.sched.queue := by
  obtain ⟨-, hf, ht, hp, -, -⟩ := admitted_times ha
  unfold fire
  cases src <;> simp only [Queue.slot] at he <;> simp only [performEvent]
  · rw [prescalerEvent_eq]
    simp [dequeue, setNow, Queue.put, advanceFuel, he, slotFirings]
    omega
  · rw [txEvent_eq]
    unfold sentSched
    split <;> simp [dequeue, setNow, Queue.put, advanceFuel, he, slotFirings] <;> omega
  · rw [rxPollEvent_eq]
    simp [dequeue, setNow, Queue.put, advanceFuel, he, slotFirings]
    omega
  · rw [flushEvent_eq]
    simp [dequeue, setNow, Queue.put, advanceFuel, he, slotFirings]
    omega

/-! ## The step -/

/-- Everything a step that answers a next state can do (R144, R98, R170). -/
theorem step_cases {s t : State} (h : step s = .next t) :
    s.cfg.admitted = true ∧
    ((s.inbox = [] ∧ schedulerTurn s = .next t) ∨
      (∃ rest, s.inbox = .scheduler :: rest ∧ schedulerTurn (s.setInbox rest) = .next t) ∨
      (∃ l rest, s.inbox = .device l :: rest ∧ levelOk l = true ∧
        t = raise l.toNat (s.setInbox rest)) ∨
      (∃ r rest, s.inbox = .cpu r :: rest ∧ s.waiting = true ∧ waitTurn s = .next t) ∨
      ∃ r rest i, s.inbox = .cpu r :: rest ∧ s.waiting = false ∧ decode s.cfg r = .ok i ∧
        exec i (s.setInbox rest) = .next t) := by
  unfold step at h
  split at h
  · rename_i ha
    refine ⟨ha, ?_⟩
    split at h
    · rename_i hi
      exact .inl ⟨hi, h⟩
    · rename_i rest hi
      exact .inr (.inl ⟨rest, hi, h⟩)
    · rename_i l rest hi
      unfold deviceRaise at h
      split at h
      · rename_i hl
        cases h
        exact .inr (.inr (.inl ⟨l, rest, hi, hl, rfl⟩))
      · cases h
    · rename_i r rest hi
      split at h
      · rename_i hw
        exact .inr (.inr (.inr (.inl ⟨r, rest, hi, hw, h⟩)))
      · rename_i hw
        split at h
        · rename_i i hd
          exact .inr (.inr (.inr (.inr ⟨r, rest, i, hi, by simpa using hw, hd, h⟩)))
        · cases h
  · cases h

end Sys2Proof.Machine
end

