-- ==== Sys2Proof/Safety.lean ====
section
/-! DEFINITION. The terms claims are stated in: what an operation leaves unchanged, the invariant of
the core's state, the marks of 10_state.md R37 and what a safe run is. -/

namespace Sys2Proof.Machine

/-! ## Frames -/

/-- The parts of the state a frame speaks of. `romBytes` and `ramBytes` are the bytes as they read,
every one of them; `hostIn` is the host's input stream; `time` the virtual time; `queue` the event
queue with its counter. -/
inductive Part
  | cfg
  | romBytes
  | ramBytes
  | ic
  | t1
  | t2
  | pre
  | buf
  | shift
  | ccr
  | time
  | queue
  | host
  | phase
  | waiting
  | response
  | notices
  | inbox
  | hostIn
  | draws
  deriving DecidableEq, Repr

/-- A part is the same in both states. Memory is compared by its read of one byte, for every index. -/
def Part.same (p : Part) (s t : State) : Prop :=
  match p with
  | .cfg => t.cfg = s.cfg
  | .romBytes => ∀ i, byteAt .rom t i = byteAt .rom s i
  | .ramBytes => ∀ i, byteAt .ram t i = byteAt .ram s i
  | .ic => t.ic = s.ic
  | .t1 => t.t1 = s.t1
  | .t2 => t.t2 = s.t2
  | .pre => t.pre = s.pre
  | .buf => t.buf = s.buf
  | .shift => t.shift = s.shift
  | .ccr => t.ccr = s.ccr
  | .time => t.sched.now = s.sched.now
  | .queue => t.sched.queue = s.sched.queue ∧ t.sched.nextSeq = s.sched.nextSeq
  | .host => t.host = s.host
  | .phase => t.phase = s.phase
  | .waiting => t.waiting = s.waiting
  | .response => t.response = s.response
  | .notices => t.notices = s.notices
  | .inbox => t.inbox = s.inbox
  | .hostIn => t.answers = s.answers ∧ t.hostReads = s.hostReads
  | .draws => t.draws = s.draws

/-- Every part but the listed ones is the same: THE FRAME of an operation. -/
def UnchangedBut (ps : List Part) (s t : State) : Prop := ∀ p, p ∉ ps → p.same s t

/-- The part that holds a space's bytes. -/
def bytesPart : Space → Part
  | .rom => .romBytes
  | .ram => .ramBytes

/-- The part that holds a channel. -/
def channelPart : Chan → Part
  | .one => .t1
  | .two => .t2

/-! ## The invariant -/

/-- Both arrays are in canonical form and list nothing outside their window (R21, R22). -/
abbrev MemoryOk (s : State) : Prop :=
  s.rom.wf = true ∧ s.ram.wf = true ∧
  s.rom.below s.cfg.romSize = true ∧ s.ram.below s.cfg.ramSize = true

/-- Bit 0 of `pending` is never set (42_interrupt_controller.md R96), and the CPU's last
notification carries the asserted level (R95). -/
abbrev InterruptsOk (s : State) : Prop :=
  s.ic.pending.getLsbD 0 = false ∧ s.notices.getLast?.getD 0 = irl s

/-- `0 ≤ in_consume ≤ in_fill ≤ UART_BUF_CAP`, the bytes up to `in_fill` are there, and the output
buffer holds at most `UART_BUF_CAP` bytes (10_state.md R29). -/
abbrev BufferedOk (s : State) : Prop :=
  s.buf.inConsume ≤ s.buf.inFill ∧ s.buf.inFill ≤ s.buf.inbuf.length ∧
  s.buf.inbuf.length ≤ s.cfg.bufCap ∧ s.buf.outbuf.length ≤ s.cfg.bufCap

/-- `th = 0` implies `ts = 0` (10_state.md R30). -/
abbrev ShiftOk (s : State) : Prop := s.shift.th = false → s.shift.ts = false

/-- No entry is overdue (45_host_and_lifecycle.md R144), and every entry was scheduled before the
next one will be (10_state.md R34). -/
abbrev EntryOk (s : State) (e : Option Slot) : Prop :=
  e.all (fun x => decide (s.sched.now ≤ x.due ∧ x.seq < s.sched.nextSeq)) = true

/-- All four entries. -/
abbrev QueueOk (s : State) : Prop :=
  EntryOk s s.sched.queue.prescaler ∧ EntryOk s s.sched.queue.uartTx ∧
  EntryOk s s.sched.queue.uartRxPoll ∧ EntryOk s s.sched.queue.uartFlush

/-- The queue holds entries of the selected mode only; in shift mode a transmit event is in flight
exactly when `ts = 0` (10_state.md R28, R31). -/
abbrev ModeQueueOk (s : State) : Prop :=
  (s.cfg.uartMode = .buffered →
    s.sched.queue.uartTx = none ∧ s.sched.queue.uartRxPoll = none) ∧
  (s.cfg.uartMode = .shift →
    s.sched.queue.uartFlush = none ∧ s.sched.queue.uartTx.isSome = !s.shift.ts)

/-- The prescaler was loaded no later than now, and its pending event is due `scaler + 1` ticks after
(10_state.md R27, 43_timer.md R109 to R111). -/
abbrev PrescalerOk (s : State) : Prop :=
  s.pre.loadedAt ≤ s.sched.now ∧
  s.sched.queue.prescaler.all
    (fun x => decide (x.due = s.pre.loadedAt + s.pre.scaler.toNat + 1)) = true

/-- The periodic events of a core that `init` started are always pending: the prescaler, and the
flush or the receive poll (70_reset_and_hazards.md R171). -/
abbrev PeriodicOk (s : State) : Prop :=
  s.phase = .ready →
    s.sched.queue.prescaler.isSome = true ∧
    (s.sched.queue.uartFlush.isSome = true ∨ s.sched.queue.uartRxPoll.isSome = true)

/-- After `shutdown` the host's streams are closed (45_host_and_lifecycle.md R152). -/
abbrev ClosedOk (s : State) : Prop :=
  s.phase = .closed → s.host.inOpen = false ∧ s.host.outOpen = false

/-- THE INVARIANT of the core. -/
abbrev State.Inv (s : State) : Prop :=
  s.cfg.admitted = true ∧ MemoryOk s ∧ InterruptsOk s ∧ BufferedOk s ∧ ShiftOk s ∧ QueueOk s ∧
  ModeQueueOk s ∧ PrescalerOk s ∧ PeriodicOk s ∧ ClosedOk s

/-! ## Runs -/

/-- The two marks kept beside the core state (10_state.md R37). -/
structure Marks where
  faulted : Bool
  refused : Bool
  deriving DecidableEq, Repr

/-- The marks after a step: a fault or a refusal sets its mark, nothing clears one (R37). -/
def Marks.after (m : Marks) : Result → Marks
  | .next _ => m
  | .fault _ => { m with faulted := true }
  | .refused _ => { m with refused := true }

/-- A run of `n` steps is safe when it ends in a state, with neither mark set on the way. -/
def SafeRun (n : Nat) (s : State) : Prop := ∃ t, core.run n s = .next t

end Sys2Proof.Machine
end

