-- ==== Sys2Proof/Certificates/Slice0/Obligations.lean ====
section
/-! DEFINITION. The statements for the provers. Each docstring names the rule it formalises. -/

open Sys2Proof Sys2Proof.Machine

/-! ## Encoding and decoding -/

/-- Words written out from 30_encoding.md R60 to R63 decode to the operations they stand for, and a
reserved and a misaligned one to none. -/
def Obligations.TableWordsDecode : Prop :=
  decodeTableWord 40 0x140000002 = some (.readRam .half 0x40000002#32) ∧
  decodeTableWord 40 0x700000008 = some (.writeRom .double 0x00000008#32 0) ∧
  decodeTableWord 40 0x680000090 = some (.writeIrqMask 0) ∧
  decodeTableWord 40 0x280000050 = some .readT2Counter ∧
  decodeTableWord 40 0x280000070 = some .readUartData ∧
  decodeTableWord 40 0xA80000070 = some (.ifetchOther 0x80000070#32) ∧
  decodeTableWord 40 0xC00000105 = some (.irqRaise 5) ∧
  decodeTableWord 40 0xC00001000 = some .evPrescaler ∧
  decodeTableWord 40 0xC00002000 = some .init ∧
  decodeTableWord 40 0xC00004100 = some (.advance 0) ∧
  decodeTableWord 40 0x900000000 = none ∧
  decodeTableWord 40 0x240000002 = none

/-- Decoding an encoded well-formed instruction gives it back, in every admitted configuration
(R60 to R64, R73). -/
def Obligations.DecodeEncodeAgree : Prop :=
  ∀ (c : Config) (i : Instr), c.admitted = true → i.wf c = true → decode c (encode c i) = .ok i

/-- What decoding answers meets the condition of its row of the opcode table (R73, R50, R61). -/
def Obligations.DecodedMeetsItsRow : Prop :=
  ∀ (c : Config) (r : Request) (i : Instr), decode c r = .ok i → i.wf c = true

/-- Which requests are refused as reserved (R72) and which as misaligned (R50), in this order
(R158). -/
def Obligations.RequestsRefused : Prop :=
  ∀ (c : Config) (r : Request),
    (decode c r = .rejected .reserved ↔
      (descKind r.desc = 2 ∧ descWc r.desc ≠ 2) ∨
      (descKind r.desc = 3 ∧ descWc r.desc ≠ 0) ∨
      (descKind r.desc = 3 ∧
        (descOp r.desc).toNat ∉
          [0x01, 0x02, 0x03, 0x10, 0x11, 0x12, 0x13, 0x20, 0x21, 0x22, 0x23, 0x24, 0x30, 0x31,
            0x40, 0x41])) ∧
    (decode c r = .rejected .misaligned ↔
      descKind r.desc ≠ 3 ∧ ¬(descKind r.desc = 2 ∧ descWc r.desc ≠ 2) ∧
      (descAddr r.desc).toNat % 2 ^ (descWc r.desc).toNat ≠ 0)

/-- The ASI of an access is ignored (20_memory.md R42). -/
def Obligations.AsiIgnored : Prop :=
  ∀ (c : Config) (r : Request) (asi : Nat), decode c { r with asi := asi } = decode c r

/-- In an admitted configuration an address lies in exactly the window that contains it
(20_memory.md R39, R40). -/
def Obligations.WindowsOfAddresses : Prop :=
  ∀ (c : Config) (a : Nat), c.admitted = true →
    (windowOf c a = .ram ↔ c.ramBase ≤ a ∧ a < c.ramBase + c.ramSize) ∧
    (windowOf c a = .apb ↔ c.apbBase ≤ a ∧ a < c.apbBase + c.apbSize) ∧
    (windowOf c a = .rom ↔ a < c.romSize) ∧
    (windowOf c a = .none ↔
      ¬(c.ramBase ≤ a ∧ a < c.ramBase + c.ramSize) ∧
      ¬(c.apbBase ≤ a ∧ a < c.apbBase + c.apbSize) ∧ ¬a < c.romSize)

/-! ## The step -/

/-- A step runs the operation the next request in the inbox decodes to, on the state without that
request. For the CPU's operations, which exclude EV_* and ADVANCE, this is 45_host_and_lifecycle.md
R144 (a). That requests stand in an inbox, ADVANCE among them, is the model's choice, log entry 2; that
a presented EV_* request, which the CPU never issues (30_encoding.md R62), runs at once is the model's
choice, log entry 11 (DEDUCED). -/
def Obligations.StepRunsDecodedOperation : Prop :=
  ∀ (s : State) (r : Request) (rest : List Move) (i : Instr),
    s.cfg.admitted = true → s.waiting = false → s.inbox = .cpu r :: rest →
    decode s.cfg r = .ok i → step s = exec i (s.setInbox rest)

/-- A step refuses a configuration that is not admitted, and a request that is reserved (R72) or
misaligned (R50). Not admitted are overlapping windows, a window that ends beyond 2^32 and overlapping
offsets, which the spec has a model refuse (00_scope.md R11, U23), and a configuration that breaks
another constraint of 00_scope.md R9 (alignment and size of the windows, levels, bit positions,
penalty, capacity, delays, F): that the step refuses these too is the model's choice, log entry 1
(DESIGN CHOICE). -/
def Obligations.StepRefusals : Prop :=
  (∀ s : State, s.cfg.admitted = false → step s = .refused .configNotAdmitted) ∧
  ∀ (s : State) (r : Request) (rest : List Move),
    s.cfg.admitted = true → s.waiting = false → s.inbox = .cpu r :: rest →
    (decode s.cfg r = .rejected .reserved → step s = .refused .reserved) ∧
    (decode s.cfg r = .rejected .misaligned → step s = .refused .misaligned)

/-- The earliest entry of the event queue is a pending one that no other precedes by due time, nor by
schedule order among equal due times; there is one unless the queue is empty (R143). -/
def Obligations.EarliestEntryFirst : Prop :=
  ∀ q : Queue,
    (∀ src e, q.earliest = some (src, e) →
      q.slot src = some e ∧
      ∀ src' e', q.slot src' = some e' → e.due < e'.due ∨ (e.due = e'.due ∧ e.seq ≤ e'.seq)) ∧
    (q.earliest = none ↔ ∀ src, q.slot src = none)

/-- The scheduler's move, made when the inbox is empty or names it, with no wait in progress: the
earliest entry fires when it is due now; when every entry is due later, one tick of virtual time
passes and nothing else happens; with an overdue entry neither move is enabled (R143, R144; that an
empty inbox lets the scheduler move is the model's choice, log entry 2, the fault on an overdue entry
log entry 15). -/
def Obligations.SchedulerMoves : Prop :=
  ∀ s s0 : State, s.cfg.admitted = true → s.waiting = false →
    (s.inbox = [] ∧ s0 = s) ∨ (∃ rest, s.inbox = .scheduler :: rest ∧ s0 = s.setInbox rest) →
    (∀ src e, s.sched.queue.earliest = some (src, e) → e.due = s.sched.now →
      step s = .next (performEvent src (dequeue src s0))) ∧
    ((∀ src e, s.sched.queue.slot src = some e → s.sched.now < e.due) →
      step s = .next (s0.setSched { s.sched with now := s.sched.now + 1 })) ∧
    ((∃ src e, s.sched.queue.slot src = some e ∧ e.due < s.sched.now) →
      step s = .fault .overdueEntry)

/-- THE INVARIANT holds after reset. -/
def Obligations.ResetMeetsInvariant : Prop := State.reset.Inv

/-- Every step keeps THE INVARIANT: memory in canonical form inside its windows, `pending` bit 0
clear, the CPU's last notification equal to the asserted level, the buffers within their bounds, no
entry overdue, a transmit event in flight exactly when the shift register is busy, the prescaler
event due `scaler + 1` ticks after the load (R21, R22, R29 to R31, R34, R95, R96, R109 to R111,
R144). -/
def Obligations.StepKeepsInvariant : Prop :=
  ∀ s t : State, s.Inv → step s = .next t → t.Inv

/-- No step changes the configuration, the UART mode with it (44_uart.md R125, 10_state.md R28), nor
lets virtual time decrease where no entry is overdue (10_state.md R33), nor takes back a byte the
host was given (10_state.md R35). -/
def Obligations.StepMonotone : Prop :=
  ∀ s t : State, step s = .next t →
    t.cfg = s.cfg ∧ (QueueOk s → s.sched.now ≤ t.sched.now) ∧
    s.host.emitted <+: t.host.emitted

/-- ROM is changed by WRITE_ROM and BULK_WRITE only, RAM by WRITE_RAM and BULK_WRITE only: no other
operation changes a byte of either, reset, events and waiting included (10_state.md R21 to R23). -/
def Obligations.MemoryChangesOnlyByWrites : Prop :=
  ∀ (i : Instr) (s t : State), exec i s = .next t →
    ((∃ idx, byteAt .rom t idx ≠ byteAt .rom s idx) →
      (∃ w a v, i = .writeRom w a v) ∨ ∃ a bs, i = .bulkWrite a bs) ∧
    ((∃ idx, byteAt .ram t idx ≠ byteAt .ram s idx) →
      (∃ w a v, i = .writeRam w a v) ∨ ∃ a bs, i = .bulkWrite a bs)

/-- A BusException is the result of an access and changes no state: whatever operation answers one
leaves every part of the state but the answer as it was, and a data access answers it with
`MEM_EX_WS` wait states (60_exceptions.md R154). -/
def Obligations.BusExceptionChangesNothing : Prop :=
  ∀ (i : Instr) (s t : State), exec i s = .next t →
    (∀ cause ws, t.response = .exception cause ws →
      ws = s.cfg.memExWs ∧ UnchangedBut [.response] s t) ∧
    (∀ cause, t.response = .fetchException cause → UnchangedBut [.response] s t)

/-- Which operations answer which BusException (R154's table): Unmapped outside every window, and on a
fetch from the peripheral window or outside; BadWidth on a peripheral access that is no word;
ReadOnly on a ROM write where ROM is not writable. -/
def Obligations.BusExceptionCauses : Prop :=
  ∀ (i : Instr) (s t : State), exec i s = .next t →
    ((∃ ws, t.response = .exception .unmapped ws) ↔
      (∃ w a, i = .readUnmapped w a) ∨ ∃ w a v, i = .writeUnmapped w a v) ∧
    ((∃ ws, t.response = .exception .badWidth ws) ↔
      (∃ a, i = .readApbB a) ∨ (∃ a, i = .readApbH a) ∨ (∃ a, i = .readApbD a) ∨
      (∃ a v, i = .writeApbB a v) ∨ (∃ a v, i = .writeApbH a v) ∨ ∃ a v, i = .writeApbD a v) ∧
    ((∃ ws, t.response = .exception .readOnly ws) ↔
      s.cfg.romWritable = false ∧ ∃ w a v, i = .writeRom w a v) ∧
    (∀ cause, t.response = .fetchException cause ↔ cause = .unmapped ∧ ∃ a, i = .ifetchOther a)

/-! ## Bus -/

/-- READ_RAM and READ_ROM answer the big-endian value of their bytes, each byte `k` weighing
`2^(8(n-1-k))`, and change nothing else (20_memory.md R46; 41_bus.md R77, R78). -/
def Obligations.ArrayReadsAreBigEndian : Prop :=
  ∀ (w : Width) (a : Addr) (s : State),
    (∃ t v, exec (.readRam w a) s = .next t ∧ t.response = .value w v s.cfg.wsRamR ∧
      v.toNat = ∑ k ∈ Finset.range w.bytes,
        (byteAt .ram s (a.toNat - s.cfg.ramBase + k)).toNat * 2 ^ (8 * (w.bytes - 1 - k)) ∧
      UnchangedBut [.response] s t) ∧
    (∃ t v, exec (.readRom w a) s = .next t ∧ t.response = .value w v s.cfg.wsRomR ∧
      v.toNat = ∑ k ∈ Finset.range w.bytes,
        (byteAt .rom s (a.toNat + k)).toNat * 2 ^ (8 * (w.bytes - 1 - k)) ∧
      UnchangedBut [.response] s t)

/-- IFETCH_RAM and IFETCH_ROM answer the big-endian word at the address, IFETCH_OTHER the exception
Unmapped; none changes anything else (41_bus.md R90). -/
def Obligations.FetchesAnswerWordOrUnmapped : Prop :=
  ∀ (a : Addr) (s : State),
    (∃ t v, exec (.ifetchRam a) s = .next t ∧ t.response = .fetched v ∧
      v.toNat = ∑ k ∈ Finset.range 4,
        (byteAt .ram s (a.toNat - s.cfg.ramBase + k)).toNat * 2 ^ (8 * (3 - k)) ∧
      UnchangedBut [.response] s t) ∧
    (∃ t v, exec (.ifetchRom a) s = .next t ∧ t.response = .fetched v ∧
      v.toNat = ∑ k ∈ Finset.range 4, (byteAt .rom s (a.toNat + k)).toNat * 2 ^ (8 * (3 - k)) ∧
      UnchangedBut [.response] s t) ∧
    (∃ t, exec (.ifetchOther a) s = .next t ∧ t.response = .fetchException .unmapped ∧
      UnchangedBut [.response] s t)

/-- WRITE_RAM, and WRITE_ROM where ROM is writable, store byte `k` of the value, bits
`8(n-1-k)+7 : 8(n-1-k)`, at index `k` past the address, and change no other byte and nothing else
(20_memory.md R47; 41_bus.md R79, R80). -/
def Obligations.ArrayWritesAreBigEndian : Prop :=
  ∀ (w : Width) (a : Addr) (v : Double) (s : State),
    (∃ t, exec (.writeRam w a v) s = .next t ∧ t.response = .written s.cfg.wsRamW ∧
      (∀ k < w.bytes, ∀ b < 8,
        (byteAt .ram t (a.toNat - s.cfg.ramBase + k)).getLsbD b =
          v.getLsbD (8 * (w.bytes - 1 - k) + b)) ∧
      (∀ j, j < a.toNat - s.cfg.ramBase ∨ a.toNat - s.cfg.ramBase + w.bytes ≤ j →
        byteAt .ram t j = byteAt .ram s j) ∧
      UnchangedBut [.response, .ramBytes] s t) ∧
    (s.cfg.romWritable = true →
      ∃ t, exec (.writeRom w a v) s = .next t ∧ t.response = .written s.cfg.wsRomW ∧
        (∀ k < w.bytes, ∀ b < 8,
          (byteAt .rom t (a.toNat + k)).getLsbD b = v.getLsbD (8 * (w.bytes - 1 - k) + b)) ∧
        (∀ j, j < a.toNat ∨ a.toNat + w.bytes ≤ j → byteAt .rom t j = byteAt .rom s j) ∧
        UnchangedBut [.response, .romBytes] s t) ∧
    (s.cfg.romWritable = false →
      ∃ t, exec (.writeRom w a v) s = .next t ∧
        t.response = .exception .readOnly s.cfg.memExWs ∧ UnchangedBut [.response] s t)

/-- A value written to RAM, or to ROM where ROM is writable, is what a read of the same address and
width answers, and a word what a fetch answers, in the state after the write and in every later state
in which the bytes written are still there (20_memory.md R55, R58; 70_reset_and_hazards.md R183). -/
def Obligations.WrittenValueReadBack : Prop :=
  ∀ (w : Width) (a : Addr) (v : Double) (s t u : State), fitsWidth w v = true →
    u.cfg = t.cfg →
    (exec (.writeRam w a v) s = .next t →
      (∀ k < w.bytes, byteAt .ram u (a.toNat - s.cfg.ramBase + k) =
        byteAt .ram t (a.toNat - s.cfg.ramBase + k)) →
      (∃ r, exec (.readRam w a) u = .next r ∧ r.response = .value w v s.cfg.wsRamR) ∧
      (w = .word → ∃ r, exec (.ifetchRam a) u = .next r ∧
        r.response = .fetched (v.setWidth 32))) ∧
    (s.cfg.romWritable = true → exec (.writeRom w a v) s = .next t →
      (∀ k < w.bytes, byteAt .rom u (a.toNat + k) = byteAt .rom t (a.toNat + k)) →
      (∃ r, exec (.readRom w a) u = .next r ∧ r.response = .value w v s.cfg.wsRomR) ∧
      (w = .word → ∃ r, exec (.ifetchRom a) u = .next r ∧
        r.response = .fetched (v.setWidth 32)))

/-- After a word is written to RAM, or to ROM where ROM is writable, each of its four bytes and each of
its two halves reads as its big-endian part of the word (20_memory.md R48). -/
def Obligations.MixedWidthReads : Prop :=
  ∀ (sp : Space) (a : Addr) (v : Word) (s t : State), aligned .word a = true →
    (sp = .ram ∧ s.cfg.ramBase ≤ a.toNat ∧
        exec (.writeRam .word a (v.setWidth 64)) s = .next t ∨
      sp = .rom ∧ s.cfg.romWritable = true ∧
        exec (.writeRom .word a (v.setWidth 64)) s = .next t) →
    memRead sp t a .byte = (v.extractLsb' 24 8).setWidth 64 ∧
    memRead sp t (a + 1) .byte = (v.extractLsb' 16 8).setWidth 64 ∧
    memRead sp t (a + 2) .byte = (v.extractLsb' 8 8).setWidth 64 ∧
    memRead sp t (a + 3) .byte = (v.extractLsb' 0 8).setWidth 64 ∧
    memRead sp t a .half = (v.extractLsb' 16 16).setWidth 64 ∧
    memRead sp t (a + 2) .half = (v.extractLsb' 0 16).setWidth 64

/-- Accesses outside every window answer Unmapped, peripheral accesses that are no words BadWidth, with
`MEM_EX_WS`, and change nothing else (41_bus.md R81 to R84). -/
def Obligations.ExceptionalAccesses : Prop :=
  ∀ (w : Width) (a : Addr) (v8 : Byte) (v16 : Half) (v : Double) (s : State),
    (∀ i ∈ [Instr.readUnmapped w a, .writeUnmapped w a v],
      ∃ t, exec i s = .next t ∧ t.response = .exception .unmapped s.cfg.memExWs ∧
        UnchangedBut [.response] s t) ∧
    (∀ i ∈ [Instr.readApbB a, .readApbH a, .readApbD a, .writeApbB a v8, .writeApbH a v16,
        .writeApbD a v],
      ∃ t, exec i s = .next t ∧ t.response = .exception .badWidth s.cfg.memExWs ∧
        UnchangedBut [.response] s t)

/-- CACHE_CTRL stores the word written and answers it whole on a read; a write changes nothing else, a
read nothing at all (41_bus.md R88, R89; 20_memory.md R59). -/
def Obligations.CacheControlIsInertStorage : Prop :=
  ∀ (v : Word) (s : State),
    (∃ t, exec .readCcr s = .next t ∧ t.response = .value .word (s.ccr.setWidth 64) s.cfg.wsApbR ∧
      UnchangedBut [.response] s t) ∧
    (∃ t, exec (.writeCcr v) s = .next t ∧ t.response = .written s.cfg.wsApbW ∧ t.ccr = v ∧
      UnchangedBut [.response, .ccr] s t)

/-- A word read of an unassigned peripheral offset answers some word and changes no state; a word
write of one is refused (41_bus.md R87). -/
def Obligations.UnassignedOffsets : Prop :=
  ∀ (a : Addr) (v : Word) (s : State),
    (∃ t d, exec (.readApbUnassigned a) s = .next t ∧
      t.response = .value .word (BitVec.setWidth 64 (d : Word)) s.cfg.wsApbR ∧
      UnchangedBut [.response, .draws] s t) ∧
    exec (.writeApbUnassigned a v) s = .refused .unassignedRegister

/-- BULK_READ of a range inside one array answers its bytes in order; of an empty range, no bytes; of
any other range it fails; it changes nothing else. No alignment is required (41_bus.md R91). -/
def Obligations.BulkReads : Prop :=
  ∀ (a : Addr) (len : Nat) (s : State), ∃ t, exec (.bulkRead a len) s = .next t ∧
    UnchangedBut [.response] s t ∧
    (len = 0 → t.response = .bytes []) ∧
    (s.cfg.admitted = true → 0 < len →
      (s.cfg.ramBase ≤ a.toNat ∧ a.toNat + len ≤ s.cfg.ramBase + s.cfg.ramSize →
        ∃ bs, t.response = .bytes bs ∧ bs.length = len ∧
          ∀ k < len, bs[k]? = some (byteAt .ram s (a.toNat - s.cfg.ramBase + k))) ∧
      (a.toNat + len ≤ s.cfg.romSize →
        ∃ bs, t.response = .bytes bs ∧ bs.length = len ∧
          ∀ k < len, bs[k]? = some (byteAt .rom s (a.toNat + k))) ∧
      (¬(s.cfg.ramBase ≤ a.toNat ∧ a.toNat + len ≤ s.cfg.ramBase + s.cfg.ramSize) →
        ¬a.toNat + len ≤ s.cfg.romSize → t.response = .bulkFailed))

/-- BULK_WRITE of a range inside one array stores the bytes in order, in ROM whatever ROM_WRITABLE
says, and changes no other byte; of any other range that is not empty it fails and writes nothing
(41_bus.md R92). With no bytes to write it ends and writes nothing (log entry 18). -/
def Obligations.BulkWrites : Prop :=
  ∀ (a : Addr) (bs : List Byte) (s : State), s.cfg.admitted = true →
    (bs = [] → ∃ t, exec (.bulkWrite a bs) s = .next t ∧ t.response = .done ∧
      UnchangedBut [.response] s t) ∧
    (bs ≠ [] → s.cfg.ramBase ≤ a.toNat ∧ a.toNat + bs.length ≤ s.cfg.ramBase + s.cfg.ramSize →
      ∃ t, exec (.bulkWrite a bs) s = .next t ∧ t.response = .done ∧
        (∀ k < bs.length, some (byteAt .ram t (a.toNat - s.cfg.ramBase + k)) = bs[k]?) ∧
        (∀ j, j < a.toNat - s.cfg.ramBase ∨ a.toNat - s.cfg.ramBase + bs.length ≤ j →
          byteAt .ram t j = byteAt .ram s j) ∧
        UnchangedBut [.response, .ramBytes] s t) ∧
    (bs ≠ [] → a.toNat + bs.length ≤ s.cfg.romSize →
      ∃ t, exec (.bulkWrite a bs) s = .next t ∧ t.response = .done ∧
        (∀ k < bs.length, some (byteAt .rom t (a.toNat + k)) = bs[k]?) ∧
        (∀ j, j < a.toNat ∨ a.toNat + bs.length ≤ j → byteAt .rom t j = byteAt .rom s j) ∧
        UnchangedBut [.response, .romBytes] s t) ∧
    (bs ≠ [] →
      ¬(s.cfg.ramBase ≤ a.toNat ∧ a.toNat + bs.length ≤ s.cfg.ramBase + s.cfg.ramSize) →
      ¬a.toNat + bs.length ≤ s.cfg.romSize →
      ∃ t, exec (.bulkWrite a bs) s = .next t ∧ t.response = .bulkFailed ∧
        UnchangedBut [.response] s t)

/-! ## Interrupt controller -/

/-- The asserted level is the highest set bit among bits 15..1 of `(pending | forced) & mask`, or 0 if
none is set (42_interrupt_controller.md R94, R97). -/
def Obligations.AssertedLevelIsHighest : Prop :=
  ∀ s : State,
    irl s ≤ 15 ∧
    (irl s ≠ 0 → ((s.ic.pending ||| s.ic.forced) &&& s.ic.mask).getLsbD (irl s) = true) ∧
    ∀ l, irl s < l → l ≤ 15 → ((s.ic.pending ||| s.ic.forced) &&& s.ic.mask).getLsbD l = false

/-- IRQ_RAISE of a level in 1..15 sets its pending bit and no other, whatever the mask, and the
arbiter runs: a changed level is notified; of any other level it is refused
(42_interrupt_controller.md R98). -/
def Obligations.RaiseSetsPending : Prop :=
  ∀ (l : Byte) (s : State),
    (1 ≤ l.toNat → l.toNat ≤ 15 →
      ∃ t, exec (.irqRaise l) s = .next t ∧ t.response = .done ∧
        (∀ b < 16, t.ic.pending.getLsbD b = (s.ic.pending.getLsbD b || decide (b = l.toNat))) ∧
        t.ic.forced = s.ic.forced ∧ t.ic.mask = s.ic.mask ∧
        t.notices = (if irl t = irl s then s.notices else s.notices ++ [irl t]) ∧
        UnchangedBut [.response, .ic, .notices] s t) ∧
    (l.toNat = 0 ∨ 15 < l.toNat → exec (.irqRaise l) s = .refused .badLevel)

/-- IRQ_ACK of a level in 1..15 clears its forced bit if that is set, else its pending bit, and no
other bit, and the arbiter runs: a changed level is notified; of any other level it is refused
(42_interrupt_controller.md R99). -/
def Obligations.AcknowledgeClearsForcedFirst : Prop :=
  ∀ (l : Byte) (s : State),
    (1 ≤ l.toNat → l.toNat ≤ 15 →
      ∃ t, exec (.irqAck l) s = .next t ∧ t.response = .done ∧ t.ic.mask = s.ic.mask ∧
        (s.ic.forced.getLsbD l.toNat = true →
          t.ic.pending = s.ic.pending ∧
          ∀ b < 16, t.ic.forced.getLsbD b = (s.ic.forced.getLsbD b && decide (b ≠ l.toNat))) ∧
        (s.ic.forced.getLsbD l.toNat = false →
          t.ic.forced = s.ic.forced ∧
          ∀ b < 16, t.ic.pending.getLsbD b = (s.ic.pending.getLsbD b && decide (b ≠ l.toNat))) ∧
        t.notices = (if irl t = irl s then s.notices else s.notices ++ [irl t]) ∧
        UnchangedBut [.response, .ic, .notices] s t) ∧
    (l.toNat = 0 ∨ 15 < l.toNat → exec (.irqAck l) s = .refused .badLevel)

/-- IRQ_POLL answers the asserted level and changes nothing else (42_interrupt_controller.md R100). -/
def Obligations.PollAnswersAssertedLevel : Prop :=
  ∀ s : State, ∃ t, exec .irqPoll s = .next t ∧ t.response = .level (irl s) ∧
    UnchangedBut [.response] s t

/-- IRQ_MASK and IRQ_FORCE take bits 15:0 of the word written, IRQ_CLEAR clears the pending bits whose
bit of the word is 1; no other latch changes, and the arbiter runs: a changed level is notified
(42_interrupt_controller.md R101, R102, R103). -/
def Obligations.InterruptRegisterWrites : Prop :=
  ∀ (v : Word) (s : State),
    (∃ t, exec (.writeIrqMask v) s = .next t ∧ t.response = .written s.cfg.wsApbW ∧
      (∀ b < 16, t.ic.mask.getLsbD b = v.getLsbD b) ∧
      t.ic.pending = s.ic.pending ∧ t.ic.forced = s.ic.forced ∧
      t.notices = (if irl t = irl s then s.notices else s.notices ++ [irl t]) ∧
      UnchangedBut [.response, .ic, .notices] s t) ∧
    (∃ t, exec (.writeIrqForce v) s = .next t ∧ t.response = .written s.cfg.wsApbW ∧
      (∀ b < 16, t.ic.forced.getLsbD b = v.getLsbD b) ∧
      t.ic.pending = s.ic.pending ∧ t.ic.mask = s.ic.mask ∧
      t.notices = (if irl t = irl s then s.notices else s.notices ++ [irl t]) ∧
      UnchangedBut [.response, .ic, .notices] s t) ∧
    (∃ t, exec (.writeIrqClear v) s = .next t ∧ t.response = .written s.cfg.wsApbW ∧
      (∀ b < 16, t.ic.pending.getLsbD b = (s.ic.pending.getLsbD b && !v.getLsbD b)) ∧
      t.ic.forced = s.ic.forced ∧ t.ic.mask = s.ic.mask ∧
      t.notices = (if irl t = irl s then s.notices else s.notices ++ [irl t]) ∧
      UnchangedBut [.response, .ic, .notices] s t)

/-- IRQ_MASK, IRQ_PENDING and IRQ_FORCE read as their latch in bits 15:0, IRQ_CLEAR as some word; a
read changes nothing (42_interrupt_controller.md R105 to R108). -/
def Obligations.InterruptRegisterReads : Prop :=
  ∀ s : State,
    (∀ p ∈ [(Instr.readIrqMask, s.ic.mask), (.readIrqPending, s.ic.pending),
        (.readIrqForce, s.ic.forced)],
      ∃ (t : State) (d : Word), exec p.1 s = .next t ∧
        t.response = .value .word (d.setWidth 64) s.cfg.wsApbR ∧
        d.extractLsb' 0 16 = p.2 ∧ UnchangedBut [.response, .draws] s t) ∧
    (∃ (t : State) (d : Word), exec .readIrqClear s = .next t ∧
      t.response = .value .word (d.setWidth 64) s.cfg.wsApbR ∧
      UnchangedBut [.response, .draws] s t)

/-- After a raise, an acknowledge or a write of an interrupt register the arbiter has run: the CPU is
notified of the new asserted level when it differs from the old one, and of nothing otherwise
(42_interrupt_controller.md R95). -/
def Obligations.LevelChangesAreNotified : Prop :=
  ∀ (l : Byte) (v : Word) (s t : State),
    ∀ i ∈ [Instr.irqRaise l, .irqAck l, .writeIrqMask v, .writeIrqForce v, .writeIrqClear v],
      exec i s = .next t →
      t.notices = if irl t = irl s then s.notices else s.notices ++ [irl t]

/-- Who can set a latch bit (60_exceptions.md R159): a pending bit is set by IRQ_RAISE of its level,
by a prescaler event for a timer level and by the UART's operations and events for its level
(ADVANCE and a wait fire events); a forced bit by IRQ_FORCE writes; a mask bit by IRQ_MASK writes. -/
def Obligations.LatchBitsAreSetOnlyBySources : Prop :=
  ∀ (i : Instr) (s t : State) (b : Nat), exec i s = .next t →
    (t.ic.pending.getLsbD b = true → s.ic.pending.getLsbD b = false →
      (∃ l, i = .irqRaise l ∧ l.toNat = b) ∨
      ((b = s.cfg.irqT1 ∨ b = s.cfg.irqT2) ∧
        (i = .evPrescaler ∨ i = .waitForInterrupt ∨ ∃ n, i = .advance n)) ∨
      (b = s.cfg.irqUart ∧
        (i = .readUartData ∨ (∃ v, i = .writeUartData v) ∨ i = .readUartStatus ∨ i = .evUartTx ∨
          i = .evUartRxPoll ∨ i = .waitForInterrupt ∨ ∃ n, i = .advance n))) ∧
    (t.ic.forced.getLsbD b = true → s.ic.forced.getLsbD b = false → ∃ v, i = .writeIrqForce v) ∧
    (t.ic.mask.getLsbD b = true → s.ic.mask.getLsbD b = false → ∃ v, i = .writeIrqMask v)

/-- The writes the spec gives no meaning are refused: IRQ_PENDING, PRESCALER_VALUE, UART_STATUS
(42_interrupt_controller.md R104, 43_timer.md R112, 44_uart.md R130). -/
def Obligations.MeaninglessWritesRefused : Prop :=
  ∀ (v : Word) (s : State),
    ∀ i ∈ [Instr.writeIrqPending v, .writePreValue v, .writeUartStatus v],
      exec i s = .refused .noWriteMeaning

/-! ## Timers -/

/-- PRESCALER_VALUE reads as `scaler - (now - loaded_at)` in bits 15:0 while that is not negative,
PRESCALER_RELOAD as the scaler; a read changes nothing (43_timer.md R109, R113, R114). -/
def Obligations.PrescalerReads : Prop :=
  ∀ s : State,
    (∃ (t : State) (d : Word), exec .readPreValue s = .next t ∧
      t.response = .value .word (d.setWidth 64) s.cfg.wsApbR ∧
      (s.pre.loadedAt ≤ s.sched.now → s.sched.now ≤ s.pre.loadedAt + s.pre.scaler.toNat →
        (d.extractLsb' 0 16).toNat + (s.sched.now - s.pre.loadedAt) = s.pre.scaler.toNat) ∧
      UnchangedBut [.response, .draws] s t) ∧
    (∃ (t : State) (d : Word), exec .readPreReload s = .next t ∧
      t.response = .value .word (d.setWidth 64) s.cfg.wsApbR ∧
      d.extractLsb' 0 16 = s.pre.scaler ∧ UnchangedBut [.response, .draws] s t)

/-- A write of PRESCALER_RELOAD stores bits 15:0, restamps the load time and replaces the pending
prescaler event by one `scaler + 1` ticks from now; the other entries, the channels and everything
else stay (43_timer.md R111, 45_host_and_lifecycle.md R142). -/
def Obligations.PrescalerReloadRestarts : Prop :=
  ∀ (v : Word) (s : State), ∃ t, exec (.writePreReload v) s = .next t ∧
    t.response = .written s.cfg.wsApbW ∧
    (∀ b < 16, t.pre.scaler.getLsbD b = v.getLsbD b) ∧ t.pre.loadedAt = s.sched.now ∧
    t.sched.queue.slot .prescaler =
      some ⟨s.sched.now + (v.toNat % 2 ^ 16 + 1), s.sched.nextSeq⟩ ∧
    (∀ src, src ≠ .prescaler → t.sched.queue.slot src = s.sched.queue.slot src) ∧
    t.sched.nextSeq = s.sched.nextSeq + 1 ∧
    UnchangedBut [.response, .pre, .queue] s t

/-- A prescaler event restamps and reschedules the prescaler and decrements each enabled channel: a
counter of 0 underflows, taking the reload where reload-on-underflow is set and `0xFFFFFFFF` where
not, and sets the channel's pending bit; a disabled channel does not change (43_timer.md R110, R115,
R116). -/
def Obligations.PrescalerEventDecrements : Prop :=
  ∀ s : State, ∃ t, exec .evPrescaler s = .next t ∧ t.response = .done ∧
    t.pre.scaler = s.pre.scaler ∧ t.pre.loadedAt = s.sched.now ∧
    t.sched.queue.slot .prescaler =
      some ⟨s.sched.now + (s.pre.scaler.toNat + 1), s.sched.nextSeq⟩ ∧
    t.sched.nextSeq = s.sched.nextSeq + 1 ∧
    (∀ src, src ≠ .prescaler → t.sched.queue.slot src = s.sched.queue.slot src) ∧
    (∀ n, (channel n t).reload = (channel n s).reload ∧ (channel n t).en = (channel n s).en ∧
      (channel n t).rl = (channel n s).rl ∧
      (channel n t).counter =
        if (channel n s).en = false then (channel n s).counter
        else if (channel n s).counter ≠ 0 then (channel n s).counter - 1
        else if (channel n s).rl then (channel n s).reload else 0xFFFFFFFF#32) ∧
    (∀ b < 16, t.ic.pending.getLsbD b =
      (s.ic.pending.getLsbD b ||
        (decide (b = s.cfg.irqT1) && s.t1.en && decide (s.t1.counter = 0)) ||
        (decide (b = s.cfg.irqT2) && s.t2.en && decide (s.t2.counter = 0)))) ∧
    t.ic.forced = s.ic.forced ∧ t.ic.mask = s.ic.mask ∧
    UnchangedBut [.response, .pre, .queue, .t1, .t2, .ic, .notices] s t

/-- A counter write stores the word and a reload write stores the word, each in its channel, and
change nothing else (43_timer.md R118, R119). -/
def Obligations.CounterAndReloadWrites : Prop :=
  ∀ (v : Word) (s : State),
    ∀ p ∈ [(Chan.one, Instr.writeT1Counter v, Instr.writeT1Reload v),
        (.two, .writeT2Counter v, .writeT2Reload v)],
      (∃ t, exec p.2.1 s = .next t ∧ t.response = .written s.cfg.wsApbW ∧
        channel p.1 t = { channel p.1 s with counter := v } ∧
        UnchangedBut [.response, channelPart p.1] s t) ∧
      (∃ t, exec p.2.2 s = .next t ∧ t.response = .written s.cfg.wsApbW ∧
        channel p.1 t = { channel p.1 s with reload := v } ∧
        UnchangedBut [.response, channelPart p.1] s t)

/-- A control write stores EN and RL from their bits, copies the reload into the counter when the LD
bit is set whatever EN is, raises nothing and changes nothing else (43_timer.md R120). -/
def Obligations.ControlWrites : Prop :=
  ∀ (v : Word) (s : State),
    ∀ p ∈ [(Chan.one, Instr.writeT1Control v), (.two, .writeT2Control v)],
      ∃ t, exec p.2 s = .next t ∧ t.response = .written s.cfg.wsApbW ∧
        (channel p.1 t).en = v.getLsbD s.cfg.bitEn ∧ (channel p.1 t).rl = v.getLsbD s.cfg.bitRl ∧
        (channel p.1 t).reload = (channel p.1 s).reload ∧
        (channel p.1 t).counter =
          (if v.getLsbD s.cfg.bitLd then (channel p.1 s).reload else (channel p.1 s).counter) ∧
        UnchangedBut [.response, channelPart p.1] s t

/-- Counters and reloads read whole; a control word reads EN and RL in their bits; a read changes
nothing (43_timer.md R121, R122, R123). -/
def Obligations.ChannelReads : Prop :=
  ∀ s : State,
    (∀ p ∈ [(Instr.readT1Counter, s.t1.counter), (.readT2Counter, s.t2.counter),
        (.readT1Reload, s.t1.reload), (.readT2Reload, s.t2.reload)],
      ∃ t, exec p.1 s = .next t ∧
        t.response = .value .word (p.2.setWidth 64) s.cfg.wsApbR ∧
        UnchangedBut [.response] s t) ∧
    (s.cfg.admitted = true →
      ∀ p ∈ [(Instr.readT1Control, s.t1), (.readT2Control, s.t2)],
        ∃ (t : State) (d : Word), exec p.1 s = .next t ∧
          t.response = .value .word (d.setWidth 64) s.cfg.wsApbR ∧
          d.getLsbD s.cfg.bitEn = p.2.en ∧ d.getLsbD s.cfg.bitRl = p.2.rl ∧
          UnchangedBut [.response, .draws] s t)

/-- The timer round trip (43_timer.md R124, R117): from a channel that is enabled, reloads on
underflow and holds its reload `R`, the first `R` prescaler events count down and leave its pending
bit alone, and event `R + 1` leaves the counter at `R` again and sets the bit. -/
def Obligations.TimerRoundTrip : Prop :=
  ∀ (n : Chan) (s : State), s.cfg.admitted = true →
    (channel n s).en = true → (channel n s).rl = true →
    (channel n s).counter = (channel n s).reload →
    (∀ k ≤ (channel n s).reload.toNat,
      ((channel n (prescalerEvent^[k] s)).counter).toNat + k = (channel n s).reload.toNat ∧
      (prescalerEvent^[k] s).ic.pending.getLsbD (channelLevel s.cfg n) =
        s.ic.pending.getLsbD (channelLevel s.cfg n)) ∧
    (channel n (prescalerEvent^[(channel n s).reload.toNat + 1] s)) = channel n s ∧
    (prescalerEvent^[(channel n s).reload.toNat + 1] s).ic.pending.getLsbD
      (channelLevel s.cfg n) = true

/-! ## UART -/

/-- A host read of at most `n` bytes returns at most `n`; none when the input is closed or disabled;
else what the next placed answer holds, of which the rest stays in the stream (45_host_and_lifecycle.md
R147; the rest that stays is the model's choice, log entry 6). -/
def Obligations.HostReadsAreBounded : Prop :=
  ∀ (n : Nat) (s : State),
    (hostBytes n s).length ≤ n ∧
    (s.host.kind = .disabled ∨ s.host.inOpen = false →
      hostBytes n s = [] ∧ hostAfterRead n s = s) ∧
    (∀ a rest, s.host.kind ≠ .disabled → s.host.inOpen = true → s.answers = a :: rest →
      hostBytes n s = a.take n ∧
      (hostAfterRead n s).answers.flatten = a.drop n ++ rest.flatten)

/-- A buffered data read (44_uart.md R131). With bytes buffered it answers the next one without a host
read and raises the interrupt exactly when more remain. With none it reads the host once: it answers
the first byte that came and raises exactly when more than one came; when none came it answers some
word and raises nothing. The bytes that came stand in the input buffer, its other positions stay, and
the host's input stream is as the host read leaves it (R147). -/
def Obligations.BufferedDataReads : Prop :=
  ∀ s : State, s.cfg.uartMode = .buffered →
    ∃ (t : State) (d : Word), exec .readUartData s = .next t ∧
      t.response = .value .word (d.setWidth 64) s.cfg.wsApbR ∧
      t.buf.outbuf = s.buf.outbuf ∧ t.ic.forced = s.ic.forced ∧ t.ic.mask = s.ic.mask ∧
      UnchangedBut [.response, .buf, .hostIn, .ic, .notices, .draws] s t ∧
      (s.buf.inConsume < s.buf.inFill →
        (∀ b, s.buf.inbuf[s.buf.inConsume]? = some b → d.extractLsb' 0 8 = b) ∧
        t.buf = { s.buf with inConsume := s.buf.inConsume + 1 } ∧ Part.hostIn.same s t ∧
        t.ic.pending =
          if s.buf.inConsume + 1 < s.buf.inFill then s.ic.pending ||| levelBit s.cfg.irqUart
          else s.ic.pending) ∧
      (∀ b bs, s.buf.inConsume = s.buf.inFill → hostBytes s.cfg.bufCap s = b :: bs →
        d.extractLsb' 0 8 = b ∧ t.buf.inFill = bs.length + 1 ∧ t.buf.inConsume = 1 ∧
        (∀ k, k < bs.length → t.buf.inbuf[k + 1]? = bs[k]?) ∧ t.buf.inbuf[0]? = some b ∧
        t.ic.pending =
          if bs = [] then s.ic.pending else s.ic.pending ||| levelBit s.cfg.irqUart) ∧
      (s.buf.inConsume = s.buf.inFill →
        t.answers = (hostAfterRead s.cfg.bufCap s).answers ∧
        t.hostReads = (hostAfterRead s.cfg.bufCap s).hostReads ∧
        ∀ k, (hostBytes s.cfg.bufCap s).length ≤ k → t.buf.inbuf[k]? = s.buf.inbuf[k]?) ∧
      (s.buf.inConsume = s.buf.inFill → hostBytes s.cfg.bufCap s = [] →
        t.buf.inFill = 0 ∧ t.buf.inConsume = 0 ∧ t.ic = s.ic)

/-- A buffered data write appends the low byte to the output buffer and raises the interrupt, on every
write, a changed level being notified; a full buffer is first written to the host and emptied
(44_uart.md R132). -/
def Obligations.BufferedDataWrites : Prop :=
  ∀ (v : Word) (s : State), s.cfg.uartMode = .buffered →
    ∃ t, exec (.writeUartData v) s = .next t ∧ t.response = .written s.cfg.wsApbW ∧
      (s.buf.outbuf.length ≠ s.cfg.bufCap →
        t.buf = { s.buf with outbuf := s.buf.outbuf ++ [v.extractLsb' 0 8] } ∧ t.host = s.host) ∧
      (s.buf.outbuf.length = s.cfg.bufCap →
        t.buf = { s.buf with outbuf := [v.extractLsb' 0 8] } ∧
        t.host =
          if s.host.outOpen then { s.host with emitted := s.host.emitted ++ s.buf.outbuf }
          else s.host) ∧
      t.ic = { s.ic with pending := s.ic.pending ||| levelBit s.cfg.irqUart } ∧
      t.notices = (if irl t = irl s then s.notices else s.notices ++ [irl t]) ∧
      UnchangedBut [.response, .buf, .host, .ic, .notices] s t

/-- A buffered status read answers data-ready exactly when a byte is available after it, and the two
readiness bits set; it reads the host exactly when the buffer is empty; when no byte arrives it
raises nothing, and otherwise it raises the UART's level or nothing. The bytes that came stand in the
input buffer, its other positions stay, and the host's input stream is as the host read leaves it
(44_uart.md R134; 45_host_and_lifecycle.md R147). -/
def Obligations.BufferedStatusReads : Prop :=
  ∀ s : State, s.cfg.uartMode = .buffered → s.cfg.admitted = true →
    ∃ (t : State) (d : Word), exec .readUartStatus s = .next t ∧
      t.response = .value .word (d.setWidth 64) s.cfg.wsApbR ∧
      d.getLsbD s.cfg.bitDr = decide (t.buf.inConsume < t.buf.inFill) ∧
      d.getLsbD s.cfg.bitTs = true ∧ d.getLsbD s.cfg.bitTh = true ∧
      t.buf.outbuf = s.buf.outbuf ∧
      (s.buf.inConsume ≠ s.buf.inFill →
        t.buf = s.buf ∧ t.ic = s.ic ∧ Part.hostIn.same s t) ∧
      (s.buf.inConsume = s.buf.inFill →
        t.buf.inConsume = 0 ∧ t.buf.inFill = (hostBytes s.cfg.bufCap s).length ∧
        (∀ k, t.buf.inbuf[k]? =
          if k < (hostBytes s.cfg.bufCap s).length then (hostBytes s.cfg.bufCap s)[k]?
          else s.buf.inbuf[k]?) ∧
        t.answers = (hostAfterRead s.cfg.bufCap s).answers ∧
        t.hostReads = (hostAfterRead s.cfg.bufCap s).hostReads ∧
        (hostBytes s.cfg.bufCap s = [] → t.ic = s.ic)) ∧
      (t.ic = s.ic ∨ t.ic = { s.ic with pending := s.ic.pending ||| levelBit s.cfg.irqUart }) ∧
      UnchangedBut [.response, .buf, .hostIn, .ic, .notices, .draws] s t

/-- The periodic flush writes the pending output to the host, empties it, schedules the next flush and
raises nothing (44_uart.md R133). -/
def Obligations.BufferedFlushEvents : Prop :=
  ∀ s : State, s.cfg.uartMode = .buffered →
    ∃ t, exec .evUartFlush s = .next t ∧ t.response = .done ∧
      t.buf = { s.buf with outbuf := [] } ∧
      (t.host =
        if s.host.outOpen then { s.host with emitted := s.host.emitted ++ s.buf.outbuf }
        else s.host) ∧
      t.sched.queue.slot .uartFlush =
        some ⟨s.sched.now + s.cfg.flushInterval, s.sched.nextSeq⟩ ∧
      t.sched.nextSeq = s.sched.nextSeq + 1 ∧
      (∀ src, src ≠ .uartFlush → t.sched.queue.slot src = s.sched.queue.slot src) ∧
      UnchangedBut [.response, .buf, .host, .queue] s t

/-- A shift-mode data write goes to a free shift register, clears shift-empty and schedules
transmit-complete; with the shift register busy it goes to the hold register, clears hold-empty and
reschedules nothing. It raises nothing (44_uart.md R135). -/
def Obligations.ShiftDataWrites : Prop :=
  ∀ (v : Word) (s : State), s.cfg.uartMode = .shift →
    ∃ t, exec (.writeUartData v) s = .next t ∧ t.response = .written s.cfg.wsApbW ∧
      (s.shift.ts = true →
        t.shift = { s.shift with shiftReg := v.extractLsb' 0 8, ts := false } ∧
        t.sched.queue.slot .uartTx =
          some ⟨s.sched.now + s.cfg.txDelay, s.sched.nextSeq⟩ ∧
        t.sched.nextSeq = s.sched.nextSeq + 1 ∧
        ∀ src, src ≠ .uartTx → t.sched.queue.slot src = s.sched.queue.slot src) ∧
      (s.shift.ts = false →
        t.shift = { s.shift with holdReg := v.extractLsb' 0 8, th := false } ∧
        Part.queue.same s t) ∧
      UnchangedBut [.response, .shift, .queue] s t

/-- Transmit-complete emits the shift register's byte; a held byte moves to the shift register and
another event is scheduled, else shift-empty is set and none is pending; the interrupt is raised when
TX_COMPLETE_IRQ says so (44_uart.md R136). -/
def Obligations.ShiftTransmitEvents : Prop :=
  ∀ s : State, s.cfg.uartMode = .shift →
    ∃ t, exec .evUartTx s = .next t ∧ t.response = .done ∧
      (t.host =
        if s.host.outOpen then { s.host with emitted := s.host.emitted ++ [s.shift.shiftReg] }
        else s.host) ∧
      (s.shift.th = false →
        t.shift = { s.shift with shiftReg := s.shift.holdReg, th := true } ∧
        t.sched.queue.slot .uartTx =
          some ⟨s.sched.now + s.cfg.txDelay, s.sched.nextSeq⟩ ∧
        t.sched.nextSeq = s.sched.nextSeq + 1) ∧
      (s.shift.th = true →
        t.shift = { s.shift with ts := true } ∧ t.sched.queue.slot .uartTx = none ∧
        t.sched.nextSeq = s.sched.nextSeq) ∧
      (∀ src, src ≠ .uartTx → t.sched.queue.slot src = s.sched.queue.slot src) ∧
      t.ic = (if s.cfg.txCompleteIrq then
          { s.ic with pending := s.ic.pending ||| levelBit s.cfg.irqUart } else s.ic) ∧
      t.notices = (if irl t = irl s then s.notices else s.notices ++ [irl t]) ∧
      UnchangedBut [.response, .shift, .host, .queue, .ic, .notices] s t

/-- A receive poll that gets a byte stores it, sets data-ready and raises the interrupt, and sets
overrun when data-ready was set; with no byte it changes the schedule only; it always schedules the
next poll, and the host's input stream is as a host read of one byte leaves it (44_uart.md R137). -/
def Obligations.ShiftReceivePolls : Prop :=
  ∀ s : State, s.cfg.uartMode = .shift →
    ∃ t, exec .evUartRxPoll s = .next t ∧ t.response = .done ∧
      t.sched.queue.slot .uartRxPoll =
        some ⟨s.sched.now + s.cfg.rxPollInterval, s.sched.nextSeq⟩ ∧
      t.sched.nextSeq = s.sched.nextSeq + 1 ∧
      (∀ src, src ≠ .uartRxPoll → t.sched.queue.slot src = s.sched.queue.slot src) ∧
      (∀ b, hostBytes 1 s = [b] →
        t.shift = { s.shift with rxData := b, dr := true, ov := s.shift.ov || s.shift.dr } ∧
        t.ic = { s.ic with pending := s.ic.pending ||| levelBit s.cfg.irqUart }) ∧
      (hostBytes 1 s = [] → t.shift = s.shift ∧ t.ic = s.ic) ∧
      t.answers = (hostAfterRead 1 s).answers ∧ t.hostReads = (hostAfterRead 1 s).hostReads ∧
      t.notices = (if irl t = irl s then s.notices else s.notices ++ [irl t]) ∧
      UnchangedBut [.response, .shift, .queue, .hostIn, .ic, .notices] s t

/-- A shift-mode data read answers the last received byte and clears data-ready and overrun; a status
read answers the four flags and clears nothing (44_uart.md R138, R139). -/
def Obligations.ShiftReads : Prop :=
  ∀ s : State, s.cfg.uartMode = .shift →
    (∃ (t : State) (d : Word), exec .readUartData s = .next t ∧
      t.response = .value .word (d.setWidth 64) s.cfg.wsApbR ∧
      d.extractLsb' 0 8 = s.shift.rxData ∧
      t.shift = { s.shift with dr := false, ov := false } ∧
      UnchangedBut [.response, .shift, .draws] s t) ∧
    (s.cfg.admitted = true →
      ∃ (t : State) (d : Word), exec .readUartStatus s = .next t ∧
        t.response = .value .word (d.setWidth 64) s.cfg.wsApbR ∧
        d.getLsbD s.cfg.bitDr = s.shift.dr ∧ d.getLsbD s.cfg.bitTs = s.shift.ts ∧
        d.getLsbD s.cfg.bitTh = s.shift.th ∧ d.getLsbD s.cfg.bitOv = s.shift.ov ∧
        UnchangedBut [.response, .draws] s t)

/-- Two bytes written to an idle transmitter before the first completes leave in order, with exactly
two transmit-complete events: after the second none is pending and the line is idle (44_uart.md
R140). -/
def Obligations.TransmitOrder : Prop :=
  ∀ (x y : Word) (s s1 s2 s3 s4 : State), s.cfg.uartMode = .shift →
    s.shift.ts = true → s.shift.th = true → s.host.outOpen = true →
    exec (.writeUartData x) s = .next s1 → exec (.writeUartData y) s1 = .next s2 →
    exec .evUartTx s2 = .next s3 → exec .evUartTx s3 = .next s4 →
    s4.host.emitted = s.host.emitted ++ [x.extractLsb' 0 8, y.extractLsb' 0 8] ∧
    s3.sched.queue.uartTx.isSome = true ∧ s4.sched.queue.uartTx = none ∧
    s4.shift.ts = true ∧ s4.shift.th = true

/-- An event of the UART mode that is not selected is refused: its fields do not exist (10_state.md
R28; the refusal is the model's choice, log entry 12). -/
def Obligations.EventsOfTheOtherModeRefused : Prop :=
  ∀ s : State,
    (s.cfg.uartMode = .buffered →
      exec .evUartTx s = .refused .wrongUartMode ∧ exec .evUartRxPoll s = .refused .wrongUartMode) ∧
    (s.cfg.uartMode = .shift → exec .evUartFlush s = .refused .wrongUartMode)

/-! ## Lifecycle and scheduler -/

/-- What RESET leaves (70_reset_and_hazards.md R171, R172): latches 0, channels stopped, the prescaler
restamped and scheduled, the UART of the selected mode idle and its periodic event scheduled, no
transmit event; ROM, RAM, the host binding, the phase and virtual time as they were, but that
unflushed buffered output is emitted or lost. After SHUTDOWN it is refused. -/
def Obligations.ResetValues : Prop :=
  ∀ s : State,
    (s.phase = .closed → exec .reset s = .refused .reserved) ∧
    (s.phase ≠ .closed →
      ∃ t, exec .reset s = .next t ∧ t.response = .done ∧
        t.ic = ⟨0, 0, 0⟩ ∧ irl t = 0 ∧
        t.t1.en = false ∧ t.t1.rl = false ∧ t.t2.en = false ∧ t.t2.rl = false ∧
        t.pre.loadedAt = s.sched.now ∧
        t.sched.queue.prescaler =
          some ⟨s.sched.now + (t.pre.scaler.toNat + 1), s.sched.nextSeq⟩ ∧
        t.sched.queue.uartTx = none ∧ t.sched.nextSeq = s.sched.nextSeq + 2 ∧
        (s.cfg.uartMode = .buffered →
          t.buf.inFill = 0 ∧ t.buf.inConsume = 0 ∧ t.buf.outbuf = [] ∧ t.shift = s.shift ∧
          t.sched.queue.uartFlush =
            some ⟨s.sched.now + s.cfg.flushInterval, s.sched.nextSeq + 1⟩ ∧
          t.sched.queue.uartRxPoll = none ∧
          (t.host = s.host ∨
            (s.host.outOpen = true ∧
              t.host = { s.host with emitted := s.host.emitted ++ s.buf.outbuf }))) ∧
        (s.cfg.uartMode = .shift →
          t.shift.dr = false ∧ t.shift.ts = true ∧ t.shift.th = true ∧ t.shift.ov = false ∧
          t.buf = s.buf ∧ t.host = s.host ∧
          t.sched.queue.uartRxPoll =
            some ⟨s.sched.now + s.cfg.rxPollInterval, s.sched.nextSeq + 1⟩ ∧
          t.sched.queue.uartFlush = none) ∧
        UnchangedBut [.response, .ic, .notices, .t1, .t2, .pre, .ccr, .queue, .buf, .shift, .host,
          .draws] s t)

/-- INIT in the phase `uninit` binds the host as HOST_KIND says, resets and makes the core ready. An
input that is not disabled opens unless a free bit says that it failed, an output unless another does;
disabled I/O leaves the input closed (45_host_and_lifecycle.md R146, R149, R150). The reset is R171's:
latches, channels, prescaler, the UART of the selected mode and the event queue; unflushed output is
emitted or lost. In any other phase INIT is a ProtocolMisuse (60_exceptions.md R156). Which failures
are free bits, and when terminal settings count as changed (`rawSet` only with an open input, for a
terminal always then, for standard input as a free bit says), is the model's choice, log entry 17. -/
def Obligations.InitBindsAndResets : Prop :=
  ∀ s : State,
    (s.phase ≠ .uninit → exec .init s = .fault .protocolMisuse) ∧
    (s.phase = .uninit →
      ∃ t, exec .init s = .next t ∧ t.response = .done ∧ t.phase = .ready ∧
        t.host.kind = s.cfg.hostKind ∧
        (s.cfg.hostKind = .disabled → t.host.inOpen = false) ∧
        (s.cfg.hostKind ≠ .disabled → t.host.inOpen = !freeBit s 0) ∧
        t.host.outOpen = !freeBit s 1 ∧
        (t.host.rawSet = true →
          t.host.inOpen = true ∧ (s.cfg.hostKind = .terminal ∨ s.cfg.hostKind = .stdio)) ∧
        (s.cfg.hostKind = .terminal → t.host.rawSet = t.host.inOpen) ∧
        (s.cfg.hostKind = .stdio → t.host.rawSet = (t.host.inOpen && freeBit s 2)) ∧
        t.ic = ⟨0, 0, 0⟩ ∧ irl t = 0 ∧ t.t1.en = false ∧ t.t1.rl = false ∧ t.t2.en = false ∧
        t.t2.rl = false ∧ t.pre.loadedAt = s.sched.now ∧
        t.sched.queue.prescaler =
          some ⟨s.sched.now + (t.pre.scaler.toNat + 1), s.sched.nextSeq⟩ ∧
        t.sched.queue.uartTx = none ∧ t.sched.nextSeq = s.sched.nextSeq + 2 ∧
        (s.cfg.uartMode = .buffered →
          t.buf.inFill = 0 ∧ t.buf.inConsume = 0 ∧ t.buf.outbuf = [] ∧ t.shift = s.shift ∧
          t.sched.queue.uartFlush =
            some ⟨s.sched.now + s.cfg.flushInterval, s.sched.nextSeq + 1⟩ ∧
          t.sched.queue.uartRxPoll = none ∧
          (t.host.emitted = s.host.emitted ∨
            (t.host.outOpen = true ∧ t.host.emitted = s.host.emitted ++ s.buf.outbuf))) ∧
        (s.cfg.uartMode = .shift →
          t.shift.dr = false ∧ t.shift.ts = true ∧ t.shift.th = true ∧ t.shift.ov = false ∧
          t.buf = s.buf ∧ t.host.emitted = s.host.emitted ∧
          t.sched.queue.uartRxPoll =
            some ⟨s.sched.now + s.cfg.rxPollInterval, s.sched.nextSeq + 1⟩ ∧
          t.sched.queue.uartFlush = none) ∧
        UnchangedBut [.response, .ic, .notices, .t1, .t2, .pre, .ccr, .queue, .buf, .shift, .host,
          .phase, .draws] s t)

/-- BOOT_INIT loads the prescaler with F - 1 as a reload write does, so that it fires F ticks on, and
starts channel 1 with counter and reload F - 1; the mask and channel 2 stay
(70_reset_and_hazards.md R173). -/
def Obligations.BootInitProgramsTimerOne : Prop :=
  ∀ s : State, s.cfg.admitted = true →
    ∃ t, exec .bootInit s = .next t ∧ t.response = .done ∧
      t.pre.scaler.toNat + 1 = s.cfg.freqMhz ∧ t.pre.loadedAt = s.sched.now ∧
      t.sched.queue.slot .prescaler = some ⟨s.sched.now + s.cfg.freqMhz, s.sched.nextSeq⟩ ∧
      t.sched.nextSeq = s.sched.nextSeq + 1 ∧
      (∀ src, src ≠ .prescaler → t.sched.queue.slot src = s.sched.queue.slot src) ∧
      t.t1.reload.toNat + 1 = s.cfg.freqMhz ∧ t.t1.counter = t.t1.reload ∧
      t.t1.en = true ∧ t.t1.rl = true ∧
      UnchangedBut [.response, .pre, .queue, .t1] s t

/-- HALT writes buffered output to the host and empties it; in shift mode it does nothing. SHUTDOWN
also restores the terminal, closes both streams and enters `closed`; a second one changes nothing
(45_host_and_lifecycle.md R151, R152). -/
def Obligations.HaltAndShutdown : Prop :=
  ∀ s : State,
    (∃ t, exec .halt s = .next t ∧ t.response = .done ∧
      (s.cfg.uartMode = .shift → UnchangedBut [.response] s t) ∧
      (s.cfg.uartMode = .buffered →
        t.buf = { s.buf with outbuf := [] } ∧
        t.host =
          if s.host.outOpen then { s.host with emitted := s.host.emitted ++ s.buf.outbuf }
          else s.host) ∧
      UnchangedBut [.response, .buf, .host] s t) ∧
    (∃ t, exec .shutdown s = .next t ∧ t.response = .done ∧ t.phase = .closed ∧
      (s.phase = .closed → UnchangedBut [.response] s t) ∧
      (s.phase ≠ .closed →
        t.host.rawSet = false ∧ t.host.inOpen = false ∧ t.host.outOpen = false ∧
        t.host.kind = s.host.kind ∧
        (s.cfg.uartMode = .shift → t.buf = s.buf ∧ t.host.emitted = s.host.emitted) ∧
        (s.cfg.uartMode = .buffered →
          t.buf = { s.buf with outbuf := [] } ∧
          t.host.emitted =
            if s.host.outOpen then s.host.emitted ++ s.buf.outbuf else s.host.emitted)) ∧
      UnchangedBut [.response, .buf, .host, .phase] s t)

/-- ADVANCE always ends, at the time `now + t`. While the earliest entry is due at or before that time,
ADVANCE fires it, by removing it and running its event rule at its due time, and goes on from there
with the ticks that remain; so every entry due by then has fired, those that firings schedule too, in
the order of due time and schedule, and none is left. With no entry due by then only the time changes
(45_host_and_lifecycle.md R143, R145). -/
def Obligations.AdvanceFiresAllDueEntries : Prop :=
  ∀ (n : Nat) (s : State), s.cfg.admitted = true →
    (∀ src e, s.sched.queue.earliest = some (src, e) → s.sched.now ≤ e.due →
      e.due ≤ s.sched.now + n →
      exec (.advance n) s =
        exec (.advance (s.sched.now + n - e.due))
          (performEvent src (dequeue src (setNow e.due s)))) ∧
    ∃ t, exec (.advance n) s = .next t ∧ t.response = .done ∧ t.sched.now = s.sched.now + n ∧
      (∀ src e, t.sched.queue.slot src = some e → s.sched.now + n < e.due) ∧
      ((∀ src e, s.sched.queue.slot src = some e → s.sched.now + n < e.due) →
        UnchangedBut [.response, .time] s t) ∧
      UnchangedBut [.response, .time, .queue, .pre, .t1, .t2, .buf, .shift, .ic, .notices, .host,
        .hostIn] s t

/-- WAIT_FOR_INTERRUPT ends at once when a level is asserted. With none asserted the earliest entry
fires, at its due time, and the wait ends exactly when a level is asserted then, else it goes on; with
no entry it hangs (60_exceptions.md R170; one turn a step is the model's form, log entry 13). -/
def Obligations.WaitForInterrupt : Prop :=
  ∀ s : State,
    (irl s ≠ 0 → ∃ t, exec .waitForInterrupt s = .next t ∧ t.response = .done ∧
      t.waiting = false ∧ UnchangedBut [.response, .waiting] s t) ∧
    (irl s = 0 → (∀ src, s.sched.queue.slot src = none) →
      exec .waitForInterrupt s = .fault .waitHang) ∧
    (∀ src e, irl s = 0 → s.sched.queue.earliest = some (src, e) →
      ∃ t, exec .waitForInterrupt s = .next t ∧
        (t.waiting = true ↔ irl (performEvent src (dequeue src (setNow e.due s))) = 0) ∧
        (t.waiting = false → t.response = .done) ∧
        UnchangedBut [.response, .waiting]
          (performEvent src (dequeue src (setNow e.due s))) t)

/-- While a wait goes on no operation of the CPU is issued: a step makes one more turn of the wait and
leaves the CPU's next request where it stands (60_exceptions.md R170; one turn a step is the model's
form, log entry 13). An external device's raise, during a wait and outside one, sets the pending bit of
its level in 1..15, a changed level being notified, and is refused for any other level
(42_interrupt_controller.md R98, 60_exceptions.md R159). -/
def Obligations.WaitHaltsIssuance : Prop :=
  ∀ (s : State) (rest : List Move), s.cfg.admitted = true →
    (s.waiting = true →
      (∀ r, s.inbox = .cpu r :: rest → step s = exec .waitForInterrupt s) ∧
      (s.inbox = [] → step s = exec .waitForInterrupt s) ∧
      (s.inbox = .scheduler :: rest → step s = exec .waitForInterrupt (s.setInbox rest))) ∧
    ∀ l : Byte, s.inbox = .device l :: rest →
      (1 ≤ l.toNat → l.toNat ≤ 15 →
        ∃ t, step s = .next t ∧ t.waiting = s.waiting ∧ t.inbox = rest ∧
          t.ic = { s.ic with pending := s.ic.pending ||| levelBit l.toNat } ∧
          t.notices = (if irl t = irl s then s.notices else s.notices ++ [irl t]) ∧
          UnchangedBut [.ic, .notices, .inbox] s t) ∧
      (l.toNat = 0 ∨ 15 < l.toNat → step s = .refused .badLevel)
end

