-- ==== Sys2Proof/Tests/Slice0.lean ====
section
/-! SUPPORT. Tests whose results come from spec/95_test_vectors.md and the encodings of
30_encoding.md, ill-formed terms that the checks refuse, and for every obligation with hypotheses a
witness that meets them. -/

namespace Sys2Proof.Tests

open Sys2Proof.Machine

/-! ## Helpers -/

/-- The outcome is a next state that passes the check. -/
def ran (o : Result) (p : State → Bool) : Bool :=
  match o with
  | .next t => p t
  | .fault _ => false
  | .refused _ => false

/-- The next state of an outcome that has one. -/
def after (o : Result) : State :=
  match o with
  | .next t => t
  | .fault _ => State.reset
  | .refused _ => State.reset

/-- The reference configuration with the UART in shift mode. -/
def shiftConfig : Config := { uartMode := .shift }

/-- After INIT in shift mode. -/
def shiftReset : State := State.initial shiftConfig

/-- The reference configuration with ROM read-only. -/
def readOnlyConfig : Config := { romWritable := false }

/-- After INIT with the given latches. -/
def withLatches (pending forced mask : Half) : State :=
  { State.reset with ic := ⟨pending, forced, mask⟩ }

/-- After INIT with the given bytes at RAM index 0 (address 0x40000000). -/
def withRam (bs : List Byte) : State := writeBytes .ram 0 bs State.reset

/-- After INIT with the given bytes at ROM index 0. -/
def withRom (bs : List Byte) : State := writeBytes .rom 0 bs State.reset

/-- After INIT with the given registers of channel 1. -/
def withT1 (c : Channel) : State := { State.reset with t1 := c }

/-- After INIT with the given registers of channel 2. -/
def withT2 (c : Channel) : State := { State.reset with t2 := c }

/-- After INIT in buffered mode with host answers placed. -/
def withAnswers (as : List (List Byte)) : State := { State.reset with answers := as }

/-- After INIT with pending output. -/
def withOutput (bs : List Byte) : State := { State.reset with buf := ⟨[], 0, 0, bs⟩ }

/-- The word a read answered, whose drawn bits no test looks at. -/
def Answered (o : Result) (d : Word) (ws : Nat) : Prop :=
  ∃ t, o = .next t ∧ t.response = .value .word (d.setWidth 64) ws

/-! ## Ill-formed terms -/

/-- Misaligned, in the wrong window, too large for the width, at an assigned offset. -/
theorem test_illFormed_refused :
    [Instr.readRam .word 0x40000002#32, .readRam .byte 0x41000000#32, .readRom .half 0x1#32,
      .readRom .byte 0x01000000#32, .writeRam .double 0x40000004#32 0, .writeRam .byte 0x0#32 0,
      .writeRam .byte 0x40000000#32 0x100, .writeRom .word 0x2#32 0, .writeRom .byte 0x40000000#32 0,
      .writeRom .half 0x0#32 0x10000, .readUnmapped .word 0x20000001#32,
      .readUnmapped .word 0x80000000#32, .writeUnmapped .half 0x20000001#32 0,
      .writeUnmapped .byte 0x40000000#32 0, .writeUnmapped .word 0x20000000#32 0x100000000].all
      (fun i => i.wf Config.reference == false) = true := by decide

/-- The same for the peripheral window and for fetches. -/
theorem test_illFormed_refused_peripheral :
    [Instr.readApbB 0x80000100#32, .writeApbB 0x0#32 0, .readApbH 0x80000001#32,
      .readApbH 0x80000100#32, .writeApbH 0x80000001#32 0, .writeApbH 0x40000000#32 0,
      .readApbD 0x80000004#32, .readApbD 0x80000100#32, .writeApbD 0x80000004#32 0,
      .writeApbD 0x20000000#32 0, .readApbUnassigned 0x80000002#32,
      .readApbUnassigned 0x80000100#32, .readApbUnassigned 0x80000090#32,
      .writeApbUnassigned 0x80000002#32 0, .writeApbUnassigned 0x80000100#32 0,
      .writeApbUnassigned 0x80000014#32 0, .ifetchRam 0x40000002#32, .ifetchRam 0x0#32,
      .ifetchRom 0x2#32, .ifetchRom 0x40000000#32, .ifetchOther 0x20000002#32,
      .ifetchOther 0x40000000#32, .ifetchOther 0x0#32].all
      (fun i => i.wf Config.reference == false) = true := by decide

/-- Configurations that 00_scope.md R9 and R11 exclude. -/
theorem test_config_refused :
    [{ romSize := 0 }, { romSize := 12 }, { ramBase := 0x00800000 }, { apbBase := 0xFFFFFF08 },
      { ramBase := 0x40000004 }, { offsets := { t1Reload := 0x40 } }, { offsets := { irqMask := 0x92 } },
      { offsets := { irqClear := 0x100 } }, { irqT1 := 0 }, { irqT2 := 16 }, { irqUart := 8 },
      { bitRl := 0 }, { bitLd := 32 }, { bitOv := 2 }, { memExWs := 0 }, { bufCap := 0 },
      { flushInterval := 0 }, { txDelay := 0 }, { rxPollInterval := 0 }, { freqMhz := 0 },
      ({ freqMhz := 65537 } : Config)].all (fun c => c.admitted == false) = true := by decide

/-! ## Decoding: words written out from 30_encoding.md R60 to R63 -/

/-- Kind 00 or 01, then the width code, then the address: RAM, ROM, no window. -/
theorem test_decode_memory :
    decode Config.reference { desc := 0x340000000 } = .ok (.readRam .double 0x40000000#32) ∧
    decode Config.reference { desc := 0x200FFFFFC } = .ok (.readRom .word 0x00FFFFFC#32) ∧
    decode Config.reference { desc := 0x540000004, value := 0xAABB } =
      .ok (.writeRam .half 0x40000004#32 0xAABB) ∧
    decode Config.reference { desc := 0x600000100, value := 0x01000000 } =
      .ok (.writeRom .word 0x00000100#32 0x01000000) ∧
    decode Config.reference { desc := 0x001000000 } = .ok (.readUnmapped .byte 0x01000000#32) ∧
    decode Config.reference { desc := 0x7FFFFFFF8, value := 5 } =
      .ok (.writeUnmapped .double 0xFFFFFFF8#32 5) := by decide

/-- Peripheral accesses of the other widths, and unassigned offsets. -/
theorem test_decode_peripheral :
    decode Config.reference { desc := 0x080000070 } = .ok (.readApbB 0x80000070#32) ∧
    decode Config.reference { desc := 0x480000090, value := 0x1FF } =
      .ok (.writeApbB 0x80000090#32 0xFF) ∧
    decode Config.reference { desc := 0x180000090 } = .ok (.readApbH 0x80000090#32) ∧
    decode Config.reference { desc := 0x580000090, value := 0xFFFF } =
      .ok (.writeApbH 0x80000090#32 0xFFFF) ∧
    decode Config.reference { desc := 0x380000090 } = .ok (.readApbD 0x80000090#32) ∧
    decode Config.reference { desc := 0x780000090, value := 0xFFFF } =
      .ok (.writeApbD 0x80000090#32 0xFFFF) ∧
    decode Config.reference { desc := 0x280000000 } = .ok (.readApbUnassigned 0x80000000#32) ∧
    decode Config.reference { desc := 0x680000000, value := 1 } =
      .ok (.writeApbUnassigned 0x80000000#32 1) := by decide

/-- Word reads of the registers, by their offsets. -/
theorem test_decode_registerReads :
    decodeTableWord 40 0x280000014 = some .readCcr ∧
    decodeTableWord 40 0x280000040 = some .readT1Counter ∧
    decodeTableWord 40 0x280000044 = some .readT1Reload ∧
    decodeTableWord 40 0x280000048 = some .readT1Control ∧
    decodeTableWord 40 0x280000050 = some .readT2Counter ∧
    decodeTableWord 40 0x280000054 = some .readT2Reload ∧
    decodeTableWord 40 0x280000058 = some .readT2Control ∧
    decodeTableWord 40 0x280000060 = some .readPreValue ∧
    decodeTableWord 40 0x280000064 = some .readPreReload ∧
    decodeTableWord 40 0x280000070 = some .readUartData ∧
    decodeTableWord 40 0x280000074 = some .readUartStatus ∧
    decodeTableWord 40 0x280000090 = some .readIrqMask ∧
    decodeTableWord 40 0x280000094 = some .readIrqPending ∧
    decodeTableWord 40 0x280000098 = some .readIrqForce ∧
    decodeTableWord 40 0x28000009C = some .readIrqClear := by decide

/-- Word writes of the registers; the value's high half is ignored (R61). -/
theorem test_decode_registerWrites :
    [(0x14, Instr.writeCcr 0xDEADBEEF), (0x40, .writeT1Counter 0xDEADBEEF),
      (0x44, .writeT1Reload 0xDEADBEEF), (0x48, .writeT1Control 0xDEADBEEF),
      (0x50, .writeT2Counter 0xDEADBEEF), (0x54, .writeT2Reload 0xDEADBEEF),
      (0x58, .writeT2Control 0xDEADBEEF), (0x60, .writePreValue 0xDEADBEEF),
      (0x64, .writePreReload 0xDEADBEEF), (0x70, .writeUartData 0xDEADBEEF),
      (0x74, .writeUartStatus 0xDEADBEEF), (0x90, .writeIrqMask 0xDEADBEEF),
      (0x94, .writeIrqPending 0xDEADBEEF), (0x98, .writeIrqForce 0xDEADBEEF),
      (0x9C, .writeIrqClear 0xDEADBEEF)].all
      (fun p => decode Config.reference
        { desc := 0x680000000 + BitVec.ofNat 36 p.1, value := 0x12345678DEADBEEF } == .ok p.2) =
      true := by decide

/-- Fetches (kind 10, width code 10). -/
theorem test_decode_fetches :
    decodeTableWord 40 0xA40000004 = some (.ifetchRam 0x40000004#32) ∧
    decodeTableWord 40 0xA00000000 = some (.ifetchRom 0x00000000#32) ∧
    decodeTableWord 40 0xA20000000 = some (.ifetchOther 0x20000000#32) ∧
    decodeTableWord 40 0xA80000070 = some (.ifetchOther 0x80000070#32) := by decide

/-- Calls and events (kind 11, width code 00, `op` in bits 31:8, `arg` in bits 7:0). -/
theorem test_decode_calls :
    decodeTableWord 40 0xC00000105 = some (.irqRaise 5) ∧
    decodeTableWord 40 0xC0000020F = some (.irqAck 15) ∧
    decodeTableWord 40 0xC00000300 = some .irqPoll ∧
    decodeTableWord 40 0xC00001000 = some .evPrescaler ∧
    decodeTableWord 40 0xC00001100 = some .evUartTx ∧
    decodeTableWord 40 0xC00001200 = some .evUartRxPoll ∧
    decodeTableWord 40 0xC00001300 = some .evUartFlush ∧
    decodeTableWord 40 0xC00002000 = some .init ∧
    decodeTableWord 40 0xC00002100 = some .reset ∧
    decodeTableWord 40 0xC00002200 = some .bootInit ∧
    decodeTableWord 40 0xC00002300 = some .halt ∧
    decodeTableWord 40 0xC00002400 = some .shutdown ∧
    decodeTableWord 40 0xC00004000 = some .waitForInterrupt := by decide

/-- Calls with operands beside the descriptor (R62). -/
theorem test_decode_operands :
    decode Config.reference { desc := 0xC00003000, addr := 0x40FFFFFE, len := 4 } =
      .ok (.bulkRead 0x40FFFFFE#32 4) ∧
    decode Config.reference { desc := 0xC00003100, addr := 0x100, bytes := [0xAB] } =
      .ok (.bulkWrite 0x100#32 [0xAB]) ∧
    decode Config.reference { desc := 0xC00004100, ticks := 11 } = .ok (.advance 11) := by decide

/-- B9, B10, B19: misaligned. B26, B27, B28: reserved. -/
theorem test_decode_refusals :
    [(0x540000001, Reject.misaligned), (0x240000002, .misaligned), (0xA40000002, .misaligned),
      (0x900000000, .reserved), (0xD00000101, .reserved), (0xC00000500, .reserved)].all
      (fun p => decode Config.reference { desc := p.1 } == .rejected p.2) = true := by decide

/-- The encoder writes the same words. -/
theorem test_encode_words :
    (encode Config.reference (.writeIrqMask 0xFFFE)).desc = 0x680000090 ∧
    (encode Config.reference (.readRam .double 0x40000000#32)).desc = 0x340000000 ∧
    (encode Config.reference (.irqRaise 3)).desc = 0xC00000103 ∧
    (encode Config.reference (.ifetchRom 0x0#32)).desc = 0xA00000000 ∧
    (encode Config.reference (.advance 11)).desc = 0xC00004100 := by decide

/-! ## Bus (95_test_vectors.md E1, E2, B1 to B25, P4) -/

/-- B4. -/
theorem test_readRam_double :
    ran (exec (.readRam .double 0x40000000#32)
        (withRam [0x11, 0x22, 0x33, 0x44, 0x55, 0x66, 0x77, 0x88]))
      (fun t => t.response == .value .double 0x1122334455667788 0) = true := by decide

/-- B3. -/
theorem test_readRam_half :
    ran (exec (.readRam .half 0x40000002#32) (withRam [0x11, 0x22, 0x33, 0x44]))
      (fun t => t.response == .value .half 0x3344 0) = true := by decide

/-- 20_memory.md R46 on the bytes of B16. -/
theorem test_readRom_word :
    ran (exec (.readRom .word 0x0#32) (withRom [0x91, 0xD0, 0x20, 0x00]))
      (fun t => t.response == .value .word 0x91D02000 0) = true := by decide

/-- B6. -/
theorem test_writeRam_byte :
    ran (exec (.writeRam .byte 0x40000001#32 0xAA) (withRam [0x11, 0x22, 0x33, 0x44]))
      (fun t => t.response == .written 0 && t.ram == [(0, 0x11), (1, 0xAA), (2, 0x33), (3, 0x44)]) =
      true := by decide

/-- B5. -/
theorem test_writeRam_double :
    ran (exec (.writeRam .double 0x40000008#32 0x0102030405060708) State.reset)
      (fun t => memRead .ram t 0x4000000C#32 .word == 0x05060708) = true := by decide

/-- B20. -/
theorem test_writeRom_word :
    ran (exec (.writeRom .word 0x100#32 0x01000000) State.reset)
      (fun t => t.response == .written 0 && memRead .rom t 0x100#32 .word == 0x01000000) = true := by
  decide

/-- B21. -/
theorem test_writeRom_readOnly :
    ran (exec (.writeRom .word 0x100#32 0x01000000) (State.initial readOnlyConfig))
      (fun t => t.response == .exception .readOnly 1 && t.rom == []) = true := by decide

/-- E1. -/
theorem test_unmapped :
    ran (exec (.readUnmapped .word 0x20000000#32) State.reset)
      (fun t => t.response == .exception .unmapped 1) = true ∧
    ran (exec (.writeUnmapped .word 0x20000000#32 0x12345678) State.reset)
      (fun t => t.response == .exception .unmapped 1 && t.ram == [] && t.rom == []) = true := by decide

/-- E2. -/
theorem test_badWidth :
    [Instr.writeApbB 0x80000090#32 0xFF, .writeApbH 0x80000090#32 0xFFFF,
      .writeApbD 0x80000090#32 0xFFFF].all (fun i => ran (exec i State.reset)
      (fun t => t.response == .exception .badWidth 1 && t.ic.mask == 0)) = true := by decide

/-- B11, B12. -/
theorem test_badWidth_reads :
    [Instr.readApbB 0x80000070#32, .readApbH 0x80000070#32, .readApbD 0x80000090#32].all
      (fun i => ran (exec i { shiftReset with shift := ⟨0, 0, 0x41, true, true, true, false⟩ })
      (fun t => t.response == .exception .badWidth 1 && t.shift.dr)) = true := by decide

/-- B13, B14. -/
theorem test_unassigned :
    ran (exec (.readApbUnassigned 0x80000000#32) State.reset) (fun t => t.ic == State.reset.ic) =
      true ∧
    exec (.writeApbUnassigned 0x80000000#32 1) State.reset = .refused .unassignedRegister :=
  ⟨by decide, rfl⟩

/-- B15. -/
theorem test_cacheControl :
    ran (exec (.writeCcr 0xDEADBEEF) State.reset)
      (fun t => t.response == .written 0 &&
        ran (exec .readCcr t) (fun u => u.response == .value .word 0xDEADBEEF 0)) = true := by decide

/-- B16, B17, B18, and a fetch from RAM. -/
theorem test_fetches :
    ran (exec (.ifetchRom 0x0#32) (withRom [0x91, 0xD0, 0x20, 0x00]))
      (fun t => t.response == .fetched 0x91D02000) = true ∧
    ran (exec (.ifetchRam 0x40000000#32) (withRam [0x11, 0x22, 0x33, 0x44]))
      (fun t => t.response == .fetched 0x11223344) = true ∧
    ran (exec (.ifetchOther 0x80000070#32) State.reset)
      (fun t => t.response == .fetchException .unmapped) = true := by decide

/-- P4 step 15, B23, B25. -/
theorem test_bulkRead :
    ran (exec (.bulkRead 0x40000000#32 4) (withRam [0x11, 0x22, 0x33, 0xEE]))
      (fun t => t.response == .bytes [0x11, 0x22, 0x33, 0xEE]) = true ∧
    ran (exec (.bulkRead 0x40FFFFFE#32 4) State.reset) (fun t => t.response == .bulkFailed) = true ∧
    ran (exec (.bulkRead 0x40000001#32 0) State.reset) (fun t => t.response == .bytes []) = true := by
  decide

/-- B22, B24. -/
theorem test_bulkWrite :
    ran (exec (.bulkWrite 0x100#32 [0xAB]) (State.initial readOnlyConfig))
      (fun t => t.response == .done && t.rom == [(0x100, 0xAB)]) = true ∧
    ran (exec (.bulkWrite 0x80000090#32 [0, 0, 0, 1]) State.reset)
      (fun t => t.response == .bulkFailed && t.ic.mask == 0) = true := by decide

/-! ## Interrupt controller (E3, I1 to I18) -/

/-- I1, and E3 row 7: a higher level wins. -/
theorem test_raise :
    ran (exec (.irqRaise 5) State.reset) (fun t => t.ic == ⟨0x0020, 0, 0⟩ && irl t == 0) = true ∧
    ran (exec (.irqRaise 14) (withLatches 0x0010 0x0400 0xFFF0)) (fun t => irl t == 14) = true := by
  decide

/-- I7, I8. -/
theorem test_badLevels :
    exec (.irqRaise 0) State.reset = .refused .badLevel ∧
    exec (.irqAck 16) State.reset = .refused .badLevel := ⟨rfl, rfl⟩

/-- I4, I5, I15. -/
theorem test_acknowledge :
    ran (exec (.irqAck 5) (withLatches 0x0020 0x0020 0x0020))
      (fun t => t.ic == ⟨0x0020, 0, 0x0020⟩ && irl t == 5) = true ∧
    ran (exec (.irqAck 5) (withLatches 0x0020 0 0x0020))
      (fun t => t.ic == ⟨0, 0, 0x0020⟩ && irl t == 0) = true ∧
    ran (exec (.irqAck 10) (withLatches 0 0x0400 0)) (fun t => t.ic == ⟨0, 0, 0⟩) = true := by decide

/-- I16. -/
theorem test_poll :
    ran (exec .irqPoll (withLatches 0x0108 0 0x0108)) (fun t => t.response == .level 8) = true := by
  decide

/-- I2, I12. -/
theorem test_writeMask :
    ran (exec (.writeIrqMask 0x0020) (withLatches 0x0020 0 0))
      (fun t => t.ic == ⟨0x0020, 0, 0x0020⟩ && irl t == 5 && t.notices == [5]) = true ∧
    ran (exec (.writeIrqMask 0xFFFF0000) (withLatches 0x0002 0 0xFFFE))
      (fun t => t.ic == ⟨0x0002, 0, 0⟩ && irl t == 0) = true := by decide

/-- I9, I18. -/
theorem test_writeForce :
    ran (exec (.writeIrqForce 0x0001) (withLatches 0 0 0xFFFF))
      (fun t => t.ic == ⟨0, 0x0001, 0xFFFF⟩ && irl t == 0) = true ∧
    ran (exec (.writeIrqForce 0) (withLatches 0x0010 0x0400 0))
      (fun t => t.ic == ⟨0x0010, 0, 0⟩) = true := by decide

/-- I11. -/
theorem test_writeClear :
    ran (exec (.writeIrqClear 0x8000) (withLatches 0x8002 0 0xFFFE))
      (fun t => t.ic == ⟨0x0002, 0, 0xFFFE⟩ && irl t == 1) = true := by decide

/-- I13, T6, UB12. -/
theorem test_noWriteMeaning :
    exec (.writeIrqPending 1) State.reset = .refused .noWriteMeaning ∧
    exec (.writePreValue 5) State.reset = .refused .noWriteMeaning ∧
    exec (.writeUartStatus 0) State.reset = .refused .noWriteMeaning := ⟨rfl, rfl, rfl⟩

/-- I17, I10, and the mask: bits 15:0 are the latch. -/
theorem test_readLatches :
    (∃ d, Answered (exec .readIrqPending (withLatches 0x0108 0 0x0108)) d 0 ∧
      d.extractLsb' 0 16 = 0x0108#16) ∧
    (∃ d, Answered (exec .readIrqForce (withLatches 0 0x0001 0xFFFF)) d 0 ∧
      d.extractLsb' 0 16 = 0x0001#16) ∧
    (∃ d, Answered (exec .readIrqMask (withLatches 0 0x0001 0xFFF0)) d 0 ∧
      d.extractLsb' 0 16 = 0xFFF0#16) :=
  ⟨⟨_, ⟨_, rfl, rfl⟩, extractLsb'_halfWord _ _⟩, ⟨_, ⟨_, rfl, rfl⟩, extractLsb'_halfWord _ _⟩,
    ⟨_, ⟨_, rfl, rfl⟩, extractLsb'_halfWord _ _⟩⟩

/-- I14: any word, and no latch changes. -/
theorem test_readClear :
    ran (exec .readIrqClear (withLatches 0x0108 0 0x0108)) (fun t => t.ic == ⟨0x0108, 0, 0x0108⟩) =
      true := by decide

/-! ## Timer block (T1 to T18, P2) -/

/-- T1, T3. -/
theorem test_writePrescaler :
    ran (exec (.writePreReload 3) State.reset)
      (fun t => t.pre == ⟨3, 0⟩ && t.sched.queue.prescaler == some ⟨4, 2⟩) = true ∧
    ran (exec (.writePreReload 0x00012345) State.reset) (fun t => t.pre.scaler == 0x2345) = true := by
  decide

/-- T2 at now 2: the remaining value is 1. -/
theorem test_readPrescaler :
    (∃ d, Answered (exec .readPreValue (setNow 2 { State.reset with pre := ⟨3, 0⟩ })) d 0 ∧
      d.extractLsb' 0 16 = 1#16) ∧
    (∃ d, Answered (exec .readPreReload { State.reset with pre := ⟨3, 0⟩ }) d 0 ∧
      d.extractLsb' 0 16 = 3#16) :=
  ⟨⟨_, ⟨_, rfl, rfl⟩, (extractLsb'_halfWord _ _).trans rfl⟩,
    ⟨_, ⟨_, rfl, rfl⟩, extractLsb'_halfWord _ _⟩⟩

/-- T7: a counter of 0 without reload wraps and raises level 8. -/
theorem test_prescalerEvent_wraps :
    ran (exec .evPrescaler (withT1 ⟨0, 0, true, false⟩))
      (fun t => t.t1.counter == 0xFFFFFFFF && t.ic.pending == 0x0100) = true := by decide

/-- T15: both channels underflow. -/
theorem test_prescalerEvent_both :
    ran (exec .evPrescaler
        { withLatches 0 0 0x0300 with t1 := ⟨0, 4, true, true⟩, t2 := ⟨0, 4, true, true⟩ })
      (fun t => t.t1.counter == 4 && t.t2.counter == 4 && t.ic.pending == 0x0300 && irl t == 9) =
      true := by decide

/-- T14. -/
theorem test_writeT1Counter :
    ran (exec (.writeT1Counter 0) (withT1 ⟨7, 0, true, false⟩))
      (fun t => t.t1 == ⟨0, 0, true, false⟩ && t.ic.pending == 0) = true := by decide

/-- P2 step 2. -/
theorem test_writeT1Reload :
    ran (exec (.writeT1Reload 2) State.reset) (fun t => t.t1.reload == 2 && t.t1.counter == 0) =
      true := by decide

/-- T11, T12. -/
theorem test_writeT1Control :
    ran (exec (.writeT1Control 0x4) (withT1 ⟨1, 9, false, false⟩))
      (fun t => t.t1 == ⟨9, 9, false, false⟩) = true ∧
    ran (exec (.writeT1Control 0x3) (withT1 ⟨1, 9, false, false⟩))
      (fun t => t.t1 == ⟨1, 9, true, true⟩) = true := by decide

/-- The same registers of channel 2 (43_timer.md R118 to R120). -/
theorem test_writeT2 :
    ran (exec (.writeT2Counter 0xFFFFFFFF) State.reset)
      (fun t => t.t2.counter == 0xFFFFFFFF && t.t1 == State.reset.t1) = true ∧
    ran (exec (.writeT2Reload 9) State.reset)
      (fun t => t.t2.reload == 9 && t.t1 == State.reset.t1) = true ∧
    ran (exec (.writeT2Control 0x7) (withT2 ⟨0, 2, false, false⟩))
      (fun t => t.t2 == ⟨2, 2, true, true⟩ && t.t1 == State.reset.t1) = true := by decide

/-- T17, and the other three whole words. -/
theorem test_readChannels :
    ran (exec .readT2Reload (withT2 ⟨1, 0xFFFFFFFF, false, false⟩))
      (fun t => t.response == .value .word 0xFFFFFFFF 0) = true ∧
    ran (exec .readT2Counter (withT2 ⟨1, 0xFFFFFFFF, false, false⟩))
      (fun t => t.response == .value .word 1 0) = true ∧
    ran (exec .readT1Counter (withT1 ⟨2, 5, true, true⟩))
      (fun t => t.response == .value .word 2 0) = true ∧
    ran (exec .readT1Reload (withT1 ⟨2, 5, true, true⟩))
      (fun t => t.response == .value .word 5 0) = true := by decide

/-- T13: bits 0 and 1 read as EN and RL. -/
theorem test_readControl :
    (∃ d, Answered (exec .readT1Control (withT1 ⟨2, 2, true, true⟩)) d 0 ∧
      d.getLsbD 0 = true ∧ d.getLsbD 1 = true) ∧
    (∃ d, Answered (exec .readT2Control (withT2 ⟨2, 2, true, false⟩)) d 0 ∧
      d.getLsbD 0 = true ∧ d.getLsbD 1 = false) := by
  refine ⟨⟨_, ⟨_, rfl, rfl⟩, ?_, ?_⟩, ⟨_, ⟨_, rfl, rfl⟩, ?_, ?_⟩⟩
  · exact (getLsbD_putBit _ _ (by decide) (by decide)).trans
      (getLsbD_putBit _ _ (by decide) (by decide))
  · exact getLsbD_putBit _ _ (by decide) (by decide)
  · exact (getLsbD_putBit _ _ (by decide) (by decide)).trans
      (getLsbD_putBit _ _ (by decide) (by decide))
  · exact getLsbD_putBit _ _ (by decide) (by decide)

/-! ## UART, buffered mode (UB1 to UB13) -/

/-- UB1: three bytes arrive, the first is answered, the interrupt is raised. -/
theorem test_bufferedRead_refills :
    (∃ d, Answered (exec .readUartData (withAnswers [[0x41, 0x42, 0x43]])) d 0 ∧
      d.extractLsb' 0 8 = 0x41#8) ∧
    ran (exec .readUartData (withAnswers [[0x41, 0x42, 0x43]]))
      (fun t => t.buf.inFill == 3 && t.buf.inConsume == 1 && t.ic.pending == 0x0008) = true :=
  ⟨⟨_, ⟨_, rfl, rfl⟩, extractLsb'_byteWord _ _⟩, by decide⟩

/-- UB5: no byte, no raise. -/
theorem test_bufferedRead_empty :
    ran (exec .readUartData (withAnswers [[]]))
      (fun t => t.buf.inFill == 0 && t.buf.inConsume == 0 && t.ic.pending == 0) = true := by decide

/-- UB6. -/
theorem test_bufferedWrite :
    ran (exec (.writeUartData 0x1FF) State.reset)
      (fun t => t.buf.outbuf == [0xFF] && t.ic.pending == 0x0008) = true := by decide

/-- UB7: a full buffer is written to the host first. -/
theorem test_bufferedWrite_full :
    ran (exec (.writeUartData 0x63)
        { State.initial { bufCap := 2 } with buf := ⟨[], 0, 0, [0x61, 0x62]⟩ })
      (fun t => t.host.emitted == [0x61, 0x62] && t.buf.outbuf == [0x63] &&
        t.ic.pending == 0x0008) = true := by decide

/-- UB4: data-ready 0, the two readiness bits 1. -/
theorem test_bufferedStatus :
    ∃ d, Answered (exec .readUartStatus (withAnswers [[]])) d 0 ∧
      d.getLsbD 0 = false ∧ d.getLsbD 1 = true ∧ d.getLsbD 2 = true := by
  refine ⟨_, ⟨_, rfl, rfl⟩, ?_, ?_, ?_⟩
  · refine (getLsbD_putBit _ _ (i := 2) (j := 0) (by decide) (by decide)).trans ?_
    refine (getLsbD_putBit _ _ (i := 1) (j := 0) (by decide) (by decide)).trans ?_
    exact getLsbD_putBit _ _ (i := 0) (j := 0) (by decide) (by decide)
  · refine (getLsbD_putBit _ _ (i := 2) (j := 1) (by decide) (by decide)).trans ?_
    exact getLsbD_putBit _ _ (i := 1) (j := 1) (by decide) (by decide)
  · exact getLsbD_putBit _ _ (i := 2) (j := 2) (by decide) (by decide)

/-- UB8. -/
theorem test_flush :
    ran (exec .evUartFlush (withOutput [0x68, 0x69]))
      (fun t => t.host.emitted == [0x68, 0x69] && t.buf.outbuf == [] &&
        t.sched.queue.uartFlush == some ⟨3000, 2⟩ && t.ic.pending == 0) = true := by decide

/-! ## UART, shift-register mode (US1 to US14) -/

/-- US2, US3. -/
theorem test_shiftWrite :
    ran (exec (.writeUartData 0x41) shiftReset)
      (fun t => t.shift.shiftReg == 0x41 && !t.shift.ts &&
        t.sched.queue.uartTx == some ⟨1000, 2⟩) = true ∧
    ran (exec (.writeUartData 0x42)
        { shiftReset with shift := ⟨0x41, 0, 0, false, false, true, false⟩ })
      (fun t => t.shift == ⟨0x41, 0x42, 0, false, false, false, false⟩) = true := by decide

/-- US5, US6. -/
theorem test_transmit :
    ran (exec .evUartTx { shiftReset with shift := ⟨0x41, 0x42, 0, false, false, false, false⟩ })
      (fun t => t.host.emitted == [0x41] && t.shift.shiftReg == 0x42 && t.shift.th &&
        !t.shift.ts && t.sched.queue.uartTx == some ⟨1000, 2⟩ && t.ic.pending == 0x0008) = true ∧
    ran (exec .evUartTx { shiftReset with shift := ⟨0x42, 0x42, 0, false, false, true, false⟩ })
      (fun t => t.host.emitted == [0x42] && t.shift.ts && t.sched.queue.uartTx == none) = true := by
  decide

/-- US8, US9. -/
theorem test_receive :
    ran (exec .evUartRxPoll { shiftReset with answers := [[0x31]] })
      (fun t => t.shift == ⟨0, 0, 0x31, true, true, true, false⟩ && t.ic.pending == 0x0008 &&
        t.sched.queue.uartRxPoll == some ⟨1000, 2⟩) = true ∧
    ran (exec .evUartRxPoll { shiftReset with
        answers := [[0x32]], shift := ⟨0, 0, 0x31, true, true, true, false⟩ })
      (fun t => t.shift == ⟨0, 0, 0x32, true, true, true, true⟩) = true := by decide

/-- US11. -/
theorem test_shiftRead :
    ∃ d, Answered (exec .readUartData
        { shiftReset with shift := ⟨0, 0, 0x32, true, true, true, true⟩ }) d 0 ∧
      d.extractLsb' 0 8 = 0x32#8 ∧
      ran (exec .readUartData { shiftReset with shift := ⟨0, 0, 0x32, true, true, true, true⟩ })
        (fun t => !t.shift.dr && !t.shift.ov) = true :=
  ⟨_, ⟨_, rfl, rfl⟩, extractLsb'_byteWord _ _, by decide⟩

/-- US10: data-ready and overrun read 1. -/
theorem test_shiftStatus :
    ∃ d, Answered (exec .readUartStatus
        { shiftReset with shift := ⟨0, 0, 0x32, true, true, true, true⟩ }) d 0 ∧
      d.getLsbD 4 = true :=
  ⟨_, ⟨_, rfl, rfl⟩, getLsbD_putBit _ _ (by decide) (by decide)⟩

/-! ## Lifecycle and scheduler (L1 to L13, E7) -/

/-- L1, L2. -/
theorem test_init :
    ran (exec .init { State.reset with phase := .uninit })
      (fun t => t.phase == .ready && t.sched.queue.uartFlush == some ⟨3000, 3⟩) = true ∧
    exec .init State.reset = .fault .protocolMisuse := ⟨by decide, rfl⟩

/-- L6, L5. -/
theorem test_reset :
    ran (exec .reset { withLatches 0x0100 0 0x0100 with t1 := ⟨5, 5, true, true⟩ })
      (fun t => t.ic == ⟨0, 0, 0⟩ && irl t == 0 && !t.t1.en && !t.t1.rl) = true ∧
    exec .reset { State.reset with phase := .closed } = .refused .reserved := ⟨by decide, rfl⟩

/-- E7 with F = 4. -/
theorem test_bootInit :
    ran (exec .bootInit (State.initial { freqMhz := 4 }))
      (fun t => t.pre == ⟨3, 0⟩ && t.sched.queue.prescaler == some ⟨4, 2⟩ &&
        t.t1 == ⟨3, 3, true, true⟩) = true := by decide

/-- UB10. -/
theorem test_halt :
    ran (exec .halt (withOutput [0x6F, 0x6B]))
      (fun t => t.host.emitted == [0x6F, 0x6B] && t.buf.outbuf == []) = true := by decide

/-- L3, L4. -/
theorem test_shutdown :
    ran (exec .shutdown (State.initial { hostKind := .terminal }))
      (fun t => t.phase == .closed && !t.host.rawSet && !t.host.inOpen && !t.host.outOpen) = true ∧
    ran (exec .shutdown { State.reset with phase := .closed }) (fun t => t.host == State.reset.host) =
      true := by decide

/-- L7: firings at 104 and 108. -/
theorem test_advance :
    ran (exec (.advance 10)
        { State.reset with
          pre := ⟨3, 100⟩, sched := ⟨100, ⟨some ⟨104, 0⟩, none, none, some ⟨3000, 1⟩⟩, 2⟩ })
      (fun t => t.sched.now == 110 && t.pre.loadedAt == 108 &&
        t.sched.queue.prescaler == some ⟨112, 3⟩) = true := by decide

/-- L9: two entries due at one time fire in schedule order. -/
theorem test_tie :
    (Queue.mk none (some ⟨1000, 3⟩) (some ⟨1000, 1⟩) none).earliest =
      some (.uartRxPoll, ⟨1000, 1⟩) := by decide

/-- L10, L11. -/
theorem test_waitForInterrupt :
    ran (exec .waitForInterrupt (withLatches 0x0008 0 0x0008))
      (fun t => t.response == .done && t.sched.now == 0) = true ∧
    ran (exec .waitForInterrupt
        { withLatches 0 0 0x0100 with
          t1 := ⟨0, 0, true, false⟩
          pre := ⟨3, 0⟩
          sched := ⟨0, ⟨some ⟨4, 0⟩, none, none, some ⟨3000, 1⟩⟩, 2⟩ })
      (fun t => t.response == .done && t.sched.now == 4 && irl t == 8) = true := by decide

/-- P1 step 2 as a step: the request is taken from the inbox and runs. -/
theorem test_step :
    ran (step { withLatches 0 0 0xFFFE with inbox := [.cpu { desc := 0xC00000103 }] })
      (fun t => t.ic.pending == 0x0008 && irl t == 3 && t.inbox == []) = true := by decide

/-- A table word presented as the next operation runs. -/
theorem test_withFetchWord :
    ran (step (State.reset.withFetchWord 40 0xC0000010A)) (fun t => t.ic.pending == 0x0400) = true := by
  decide

/-! ## Witnesses: states and operands that meet the hypotheses of the obligations -/

/-- After INIT with one move in the inbox. -/
def withMove (m : Move) : State := { State.reset with inbox := [m] }

/-- After INIT, but before INIT ran. -/
def uninit (c : Config) : State := { State.initial c with phase := .uninit }

theorem witness_DecodeEncodeAgree :
    Config.reference.admitted = true ∧
    [Instr.readRam .double 0x40FFFFF8#32, .writeRom .byte 0x0#32 0xFF, .writeApbB 0x800000FF#32 0xFF,
      .readApbUnassigned 0x80000000#32, .ifetchOther 0xFFFFFFFC#32, .irqRaise 255,
      .writeCcr 0xFFFFFFFF].all (fun i => i.wf Config.reference) = true := by decide

theorem witness_DecodedMeetsItsRow :
    decode Config.reference { desc := 0x440000000, value := 0x1FF } =
      .ok (.writeRam .byte 0x40000000#32 0xFF) := by decide

theorem witness_WindowsOfAddresses :
    Config.reference.admitted = true ∧
    windowOf Config.reference 0x3FFFFFFF = .none ∧ windowOf Config.reference 0x40000000 = .ram ∧
    windowOf Config.reference 0x40FFFFFF = .ram ∧ windowOf Config.reference 0x41000000 = .none ∧
    windowOf Config.reference 0x80000000 = .apb ∧ windowOf Config.reference 0x800000FF = .apb ∧
    windowOf Config.reference 0x80000100 = .none ∧ windowOf Config.reference 0 = .rom ∧
    windowOf Config.reference 0x00FFFFFF = .rom ∧ windowOf Config.reference 0x01000000 = .none := by
  decide

theorem witness_StepRunsDecodedOperation :
    (withMove (.cpu { desc := 0xC00000105 })).cfg.admitted = true ∧
    (withMove (.cpu { desc := 0xC00000105 })).waiting = false ∧
    (withMove (.cpu { desc := 0xC00000105 })).inbox = [.cpu { desc := 0xC00000105 }] ∧
    decode (withMove (.cpu { desc := 0xC00000105 })).cfg { desc := 0xC00000105 } =
      .ok (.irqRaise 5) := by decide

theorem witness_StepRefusals :
    (State.initial { freqMhz := 65537 }).cfg.admitted = false ∧
    State.reset.cfg.admitted = true ∧ (withMove (.cpu { desc := 0x900000000 })).waiting = false ∧
    decode Config.reference { desc := 0x900000000 } = .rejected .reserved ∧
    decode Config.reference { desc := 0x240000002 } = .rejected .misaligned := by decide

theorem witness_EarliestEntryFirst :
    State.reset.sched.queue.earliest = some (.prescaler, ⟨1, 0⟩) ∧
    Queue.empty.earliest = none ∧ Queue.empty.slot .uartFlush = none := by decide

theorem witness_SchedulerMoves_fires :
    State.reset.cfg.admitted = true ∧ State.reset.waiting = false ∧ State.reset.inbox = [] ∧
    (setNow 1 State.reset).sched.queue.earliest = some (.prescaler, ⟨1, 0⟩) ∧
    (setNow 1 State.reset).sched.now = 1 := by decide

theorem witness_SchedulerMoves_passes :
    ∀ src e, State.reset.sched.queue.slot src = some e → State.reset.sched.now < e.due := by
  intro src e h
  cases src <;> cases h <;> decide

theorem witness_SchedulerMoves_stuck :
    (setNow 2 State.reset).sched.queue.slot .prescaler = some ⟨1, 0⟩ ∧
    1 < (setNow 2 State.reset).sched.now := by decide

/-- A placed move of the scheduler. -/
theorem witness_SchedulerMoves_placed :
    (withMove .scheduler).cfg.admitted = true ∧ (withMove .scheduler).waiting = false ∧
    (withMove .scheduler).inbox = [.scheduler] ∧
    (setNow 1 (withMove .scheduler)).sched.queue.earliest = some (.prescaler, ⟨1, 0⟩) ∧
    (setNow 2 (withMove .scheduler)).sched.queue.slot .prescaler = some ⟨1, 0⟩ := by decide

theorem witness_StepKeepsInvariant :
    State.reset.Inv ∧ step State.reset = .next (setNow 1 State.reset) := ⟨by decide, by rfl⟩

/-- The invariant holds in shift mode too. -/
theorem witness_StepKeepsInvariant_shift : shiftReset.Inv := by decide

theorem witness_StepMonotone :
    step State.reset = .next (setNow 1 State.reset) ∧ QueueOk State.reset := ⟨by rfl, by decide⟩

theorem witness_MemoryChangesOnlyByWrites :
    ran (exec (.writeRam .byte 0x40000000#32 1) (withRam [0]))
      (fun t => byteAt .ram t 0 != byteAt .ram (withRam [0]) 0) = true ∧
    ran (exec (.bulkWrite 0x0#32 [1]) (withRom [0]))
      (fun t => byteAt .rom t 0 != byteAt .rom (withRom [0]) 0) = true := by decide

theorem witness_BusExceptionChangesNothing :
    ran (exec (.readUnmapped .word 0x20000000#32) State.reset)
      (fun t => t.response == .exception .unmapped 1) = true ∧
    ran (exec (.ifetchOther 0x20000000#32) State.reset)
      (fun t => t.response == .fetchException .unmapped) = true := by decide

theorem witness_BusExceptionCauses :
    exec (.readApbB 0x80000000#32) State.reset =
      .next (respond (.exception .badWidth 1) State.reset) ∧
    exec (.writeRom .byte 0x0#32 0) (State.initial readOnlyConfig) =
      .next (respond (.exception .readOnly 1) (State.initial readOnlyConfig)) := ⟨rfl, rfl⟩

theorem witness_ArrayWritesAreBigEndian :
    State.reset.cfg.romWritable = true ∧ (State.initial readOnlyConfig).cfg.romWritable = false ∧
    7 < Width.double.bytes ∧ 0 < Width.byte.bytes := by decide

theorem witness_WrittenValueReadBack :
    fitsWidth .byte 0xFF = true ∧ fitsWidth .double 0xFFFFFFFFFFFFFFFF = true ∧
    exec (.writeRam .byte 0x40FFFFFF#32 0xFF) State.reset =
      .next (after (exec (.writeRam .byte 0x40FFFFFF#32 0xFF) State.reset)) :=
  ⟨by decide, by decide, rfl⟩

/-- ROM, at its last word; a later state is the one after a device's raise. -/
theorem witness_WrittenValueReadBack_rom :
    State.reset.cfg.romWritable = true ∧
    exec (.writeRom .word 0x00FFFFFC#32 0x11223344) State.reset =
      .next (after (exec (.writeRom .word 0x00FFFFFC#32 0x11223344) State.reset)) ∧
    (∀ k < Width.word.bytes,
      byteAt .rom (raise 5 (after (exec (.writeRom .word 0x00FFFFFC#32 0x11223344) State.reset)))
          ((0x00FFFFFC#32).toNat + k) =
        byteAt .rom (after (exec (.writeRom .word 0x00FFFFFC#32 0x11223344) State.reset))
          ((0x00FFFFFC#32).toNat + k)) :=
  ⟨rfl, rfl, fun _ _ => rfl⟩

theorem witness_MixedWidthReads :
    aligned .word 0x40FFFFFC#32 = true ∧ State.reset.cfg.ramBase ≤ (0x40FFFFFC#32).toNat ∧
    exec (.writeRam .word 0x40FFFFFC#32 ((0x11223344#32).setWidth 64)) State.reset =
      .next (after (exec (.writeRam .word 0x40FFFFFC#32 ((0x11223344#32).setWidth 64)) State.reset)) :=
  ⟨by decide, by decide, rfl⟩

theorem witness_MixedWidthReads_rom :
    aligned .word 0x00FFFFFC#32 = true ∧ State.reset.cfg.romWritable = true ∧
    exec (.writeRom .word 0x00FFFFFC#32 ((0x11223344#32).setWidth 64)) State.reset =
      .next (after (exec (.writeRom .word 0x00FFFFFC#32 ((0x11223344#32).setWidth 64)) State.reset)) :=
  ⟨by decide, rfl, rfl⟩

theorem witness_BulkReads :
    State.reset.cfg.admitted = true ∧
    (State.reset.cfg.ramBase ≤ (0x40FFFFFF#32).toNat ∧
      (0x40FFFFFF#32).toNat + 1 ≤ State.reset.cfg.ramBase + State.reset.cfg.ramSize) ∧
    (0x00FFFFFF#32).toNat + 1 ≤ State.reset.cfg.romSize ∧
    ¬(0x00FFFFFF#32).toNat + 2 ≤ State.reset.cfg.romSize ∧
    ¬(State.reset.cfg.ramBase ≤ (0x40FFFFFF#32).toNat ∧
      (0x40FFFFFF#32).toNat + 2 ≤ State.reset.cfg.ramBase + State.reset.cfg.ramSize) := by decide

theorem witness_BulkWrites :
    State.reset.cfg.admitted = true ∧ ([0xAB] : List Byte) ≠ [] ∧
    (State.reset.cfg.ramBase ≤ (0x40000000#32).toNat ∧
      (0x40000000#32).toNat + [0xAB#8].length ≤ State.reset.cfg.ramBase + State.reset.cfg.ramSize) ∧
    (0x00FFFFFF#32).toNat + [0xAB#8].length ≤ State.reset.cfg.romSize ∧
    ¬(0x80000090#32).toNat + [0xAB#8].length ≤ State.reset.cfg.romSize ∧
    ¬(State.reset.cfg.ramBase ≤ (0x80000090#32).toNat ∧
      (0x80000090#32).toNat + [0xAB#8].length ≤ State.reset.cfg.ramBase + State.reset.cfg.ramSize) := by
  decide

theorem witness_AssertedLevelIsHighest :
    irl (withLatches 0x8002 0 0xFFFE) = 15 ∧ irl (withLatches 0x0001 0x0001 0xFFFF) = 0 := by decide

theorem witness_RaiseSetsPending :
    (1 ≤ (1#8).toNat ∧ (1#8).toNat ≤ 15) ∧ (1 ≤ (15#8).toNat ∧ (15#8).toNat ≤ 15) ∧
    (0#8).toNat = 0 ∧ 15 < (16#8).toNat := by decide

theorem witness_AcknowledgeClearsForcedFirst :
    (withLatches 0x0020 0x0020 0).ic.forced.getLsbD (5#8).toNat = true ∧
    (withLatches 0x0020 0x0020 0).ic.forced.getLsbD (6#8).toNat = false := by decide

theorem witness_LevelChangesAreNotified :
    exec (.irqRaise 5) (withLatches 0 0 0x0020) =
      .next (after (exec (.irqRaise 5) (withLatches 0 0 0x0020))) ∧
    irl (after (exec (.irqRaise 5) (withLatches 0 0 0x0020))) = 5 ∧
    exec (.irqRaise 5) (withLatches 0 0 0) = .next (after (exec (.irqRaise 5) (withLatches 0 0 0))) ∧
    irl (after (exec (.irqRaise 5) (withLatches 0 0 0))) = 0 := ⟨rfl, by decide, rfl, by decide⟩

theorem witness_LatchBitsAreSetOnlyBySources :
    ran (exec (.writeUartData 0x41) State.reset) (fun t => t.ic.pending.getLsbD 3) = true ∧
    ran (exec .evPrescaler (withT1 ⟨0, 0, true, false⟩)) (fun t => t.ic.pending.getLsbD 8) = true ∧
    ran (exec (.writeIrqForce 0x8000) State.reset) (fun t => t.ic.forced.getLsbD 15) = true ∧
    ran (exec (.writeIrqMask 1) State.reset) (fun t => t.ic.mask.getLsbD 0) = true ∧
    State.reset.ic.pending.getLsbD 3 = false := by decide

theorem witness_PrescalerReads :
    State.reset.pre.loadedAt ≤ State.reset.sched.now ∧
    State.reset.sched.now ≤ State.reset.pre.loadedAt + State.reset.pre.scaler.toNat ∧
    (setNow 3 { State.reset with pre := ⟨3, 0⟩ }).sched.now ≤ 0 + (3#16).toNat := by decide

theorem witness_ChannelReads : State.reset.cfg.admitted = true := by decide

theorem witness_TimerRoundTrip :
    State.reset.cfg.admitted = true ∧ (channel .two (withT2 ⟨2, 2, true, true⟩)).en = true ∧
    (channel .two (withT2 ⟨2, 2, true, true⟩)).rl = true ∧
    (channel .two (withT2 ⟨2, 2, true, true⟩)).counter =
      (channel .two (withT2 ⟨2, 2, true, true⟩)).reload ∧
    (channel .one (withT1 ⟨0, 0, true, true⟩)).counter =
      (channel .one (withT1 ⟨0, 0, true, true⟩)).reload := by decide

theorem witness_HostReadsAreBounded :
    (State.initial { hostKind := .disabled }).host.kind = .disabled ∧
    (withAnswers [[0x41, 0x42]]).host.kind ≠ .disabled ∧
    (withAnswers [[0x41, 0x42]]).host.inOpen = true ∧
    (withAnswers [[0x41, 0x42]]).answers = [[0x41, 0x42]] ∧
    hostBytes 1 (withAnswers [[0x41, 0x42]]) = [0x41] := by decide

theorem witness_BufferedDataReads_buffered :
    State.reset.cfg.uartMode = .buffered ∧
    (BufferedUart.mk [0x41, 0x42] 2 1 []).inConsume < (BufferedUart.mk [0x41, 0x42] 2 1 []).inFill ∧
    (BufferedUart.mk [0x41, 0x42] 2 1 []).inbuf[1]? = some 0x42 := by decide

theorem witness_BufferedDataReads_refilled :
    (withAnswers [[0x41, 0x42]]).buf.inConsume = (withAnswers [[0x41, 0x42]]).buf.inFill ∧
    hostBytes (withAnswers [[0x41, 0x42]]).cfg.bufCap (withAnswers [[0x41, 0x42]]) = [0x41, 0x42] ∧
    hostBytes (withAnswers [[]]).cfg.bufCap (withAnswers [[]]) = [] := by decide

theorem witness_BufferedDataWrites :
    State.reset.buf.outbuf.length ≠ State.reset.cfg.bufCap ∧
    ({ State.initial { bufCap := 1 } with buf := ⟨[], 0, 0, [0x61]⟩ } : State).buf.outbuf.length =
      ({ State.initial { bufCap := 1 } with buf := ⟨[], 0, 0, [0x61]⟩ } : State).cfg.bufCap ∧
    (State.initial { bufCap := 1 }).cfg.uartMode = .buffered := by decide

theorem witness_BufferedStatusReads :
    State.reset.cfg.uartMode = .buffered ∧ State.reset.cfg.admitted = true ∧
    State.reset.buf.inConsume = State.reset.buf.inFill ∧
    (BufferedUart.mk [0x41] 1 0 []).inConsume ≠ (BufferedUart.mk [0x41] 1 0 []).inFill := by decide

theorem witness_BufferedFlushEvents :
    (withOutput [0x68]).cfg.uartMode = .buffered ∧ Source.prescaler ≠ .uartFlush := by decide

theorem witness_ShiftDataWrites :
    shiftReset.cfg.uartMode = .shift ∧ shiftReset.shift.ts = true ∧
    ({ shiftReset with shift := ⟨0x41, 0, 0, false, false, true, false⟩ } : State).shift.ts = false := by
  decide

theorem witness_ShiftTransmitEvents :
    shiftReset.cfg.uartMode = .shift ∧ shiftReset.shift.th = true ∧
    ({ shiftReset with shift := ⟨0x41, 0x42, 0, false, false, false, false⟩ } : State).shift.th =
      false := by decide

theorem witness_ShiftReceivePolls :
    shiftReset.cfg.uartMode = .shift ∧ hostBytes 1 { shiftReset with answers := [[0x31]] } = [0x31] ∧
    hostBytes 1 { shiftReset with answers := [[]] } = [] := by decide

theorem witness_ShiftReads :
    shiftReset.cfg.uartMode = .shift ∧ shiftReset.cfg.admitted = true := by decide

theorem witness_TransmitOrder :
    shiftReset.cfg.uartMode = .shift ∧ shiftReset.shift.ts = true ∧ shiftReset.shift.th = true ∧
    shiftReset.host.outOpen = true ∧
    ran (exec (.writeUartData 0x41) shiftReset) (fun s1 =>
      ran (exec (.writeUartData 0x42) s1) (fun s2 =>
        ran (exec .evUartTx s2) (fun s3 =>
          ran (exec .evUartTx s3) (fun s4 => s4.host.emitted == [0x41, 0x42])))) = true := by decide

theorem witness_EventsOfTheOtherModeRefused :
    State.reset.cfg.uartMode = .buffered ∧ shiftReset.cfg.uartMode = .shift := by decide

theorem witness_ResetValues :
    ({ State.reset with phase := .closed } : State).phase = .closed ∧
    State.reset.phase ≠ .closed ∧ State.reset.cfg.uartMode = .buffered ∧
    shiftReset.phase ≠ .closed ∧ shiftReset.cfg.uartMode = .shift := by decide

theorem witness_InitBindsAndResets :
    State.reset.phase ≠ .uninit ∧ (uninit {}).phase = .uninit ∧
    (uninit { hostKind := .disabled }).cfg.hostKind = .disabled ∧
    (uninit { hostKind := .terminal }).cfg.hostKind = .terminal ∧
    (uninit {}).cfg.hostKind = .stdio ∧ (uninit {}).cfg.uartMode = .buffered ∧
    (uninit { uartMode := .shift }).cfg.uartMode = .shift := by decide

theorem witness_BootInitProgramsTimerOne :
    (State.initial { freqMhz := 1 }).cfg.admitted = true ∧
    (State.initial { freqMhz := 65536 }).cfg.admitted = true := by decide

theorem witness_HaltAndShutdown :
    shiftReset.cfg.uartMode = .shift ∧ (withOutput [0x6F]).cfg.uartMode = .buffered ∧
    ({ State.reset with phase := .closed } : State).phase = .closed ∧
    State.reset.phase ≠ .closed := by decide

theorem witness_AdvanceFiresAllDueEntries :
    State.reset.cfg.admitted = true ∧
    ∀ src e, State.reset.sched.queue.slot src = some e → State.reset.sched.now + 0 < e.due := by
  refine ⟨by decide, ?_⟩
  intro src e h
  cases src <;> cases h <;> decide

/-- The earliest entry is due at the last tick ADVANCE reaches, and one is due now. -/
theorem witness_AdvanceFiresAllDueEntries_fires :
    State.reset.sched.queue.earliest = some (.prescaler, ⟨1, 0⟩) ∧
    State.reset.sched.now ≤ 1 ∧ 1 ≤ State.reset.sched.now + 1 ∧
    (setNow 1 State.reset).sched.queue.earliest = some (.prescaler, ⟨1, 0⟩) ∧
    (setNow 1 State.reset).sched.now ≤ 1 ∧ 1 ≤ (setNow 1 State.reset).sched.now + 0 := by decide

theorem witness_WaitForInterrupt :
    irl (withLatches 0x0008 0 0x0008) ≠ 0 ∧ irl State.reset = 0 ∧
    State.reset.sched.queue.earliest = some (.prescaler, ⟨1, 0⟩) ∧
    (∀ src, Queue.empty.slot src = none) := by
  refine ⟨by decide, by decide, by decide, ?_⟩
  intro src
  cases src <;> rfl

theorem witness_WaitHaltsIssuance :
    ({ withMove (.device 15) with waiting := true } : State).cfg.admitted = true ∧
    ({ withMove (.device 15) with waiting := true } : State).waiting = true ∧
    ({ withMove (.device 15) with waiting := true } : State).inbox = [.device 15] ∧
    1 ≤ (15#8).toNat ∧ (15#8).toNat ≤ 15 := by decide

/-- A raise outside a wait: levels 1, and 0 and 16 that are refused. -/
theorem witness_WaitHaltsIssuance_outside :
    (withMove (.device 1)).waiting = false ∧ (withMove (.device 1)).inbox = [.device 1] ∧
    1 ≤ (1#8).toNat ∧ (withMove (.device 0)).inbox = [.device 0] ∧ (0#8).toNat = 0 ∧
    (withMove (.device 16)).inbox = [.device 16] ∧ 15 < (16#8).toNat := by decide

end Sys2Proof.Tests
end

section
/-! PROOFS. When a step refuses before any operation runs (00_scope.md R9, R11; 20_memory.md R50;
30_encoding.md R72). -/

namespace Sys2Proof.Machine

/-! ## The step's own refusals -/

/-- The check of the configuration comes first, whatever the inbox holds (R11, log entry 1). -/
theorem step_not_admitted {s : State} (h : s.cfg.admitted = false) :
    step s = .refused .configNotAdmitted := by
  simp [step, h]

/-- With no wait in progress, the CPU's request reaches the decoder, whose rejection the step passes
on as a refusal. -/
theorem step_cpu_rejected {s : State} {r : Request} {rest : List Move} {e : Reject}
    (ha : s.cfg.admitted = true) (hw : s.waiting = false) (hi : s.inbox = .cpu r :: rest)
    (hd : decode s.cfg r = .rejected e) : step s = .refused (refusalOf e) := by
  simp [step, ha, hw, hi, hd]

/-- Settles O8: the configuration is checked before the inbox is read, and both rejections of the
decoder are passed on under their own names. -/
theorem stepRefusals : Obligations.StepRefusals := by
  unfold Obligations.StepRefusals
  refine ⟨fun s h => step_not_admitted h, fun s r rest ha hw hi => ⟨fun hd => ?_, fun hd => ?_⟩⟩
  · exact step_cpu_rejected ha hw hi hd
  · exact step_cpu_rejected ha hw hi hd

end Sys2Proof.Machine
end

section
/-! PROOFS. What decoding answers meets its row's condition (30_encoding.md R73), so that the bytes a
decoded write stores lie inside their array (10_state.md R21, R22). -/

namespace Sys2Proof

/-! ## Decoded instructions are well formed -/

theorem readOf_wf (c : Config) (r : Reg) : (readOf r).wf c = true := by cases r <;> rfl

theorem writeOf_wf (c : Config) (v : Word) (r : Reg) : (writeOf v r).wf c = true := by
  cases r <;> rfl

theorem decodeRead_wf {c : Config} {w : Width} {a : Addr} (h : aligned w a = true) :
    (decodeRead c w a).wf c = true := by
  cases hw : windowOf c a.toNat with
  | apb =>
    cases w with
    | word =>
      cases hr : registerAt c (a.toNat - c.apbBase) with
      | some r => simpa only [decodeRead, hw, hr] using readOf_wf c r
      | none => simp [decodeRead, Instr.wf, h, hw, hr]
    | _ => simp [decodeRead, Instr.wf, h, hw]
  | _ => simp [decodeRead, Instr.wf, h, hw]

theorem decodeWrite_wf {c : Config} {w : Width} {a : Addr} (v : Double)
    (h : aligned w a = true) : (decodeWrite c w a v).wf c = true := by
  cases hw : windowOf c a.toNat with
  | apb =>
    cases w with
    | word =>
      cases hr : registerAt c (a.toNat - c.apbBase) with
      | some r => simpa only [decodeWrite, hw, hr] using writeOf_wf c _ r
      | none => simp [decodeWrite, Instr.wf, h, hw, hr]
    | _ => simp [decodeWrite, Instr.wf, h, hw]
  | _ => simp [decodeWrite, Instr.wf, fitsWidth_truncateTo, h, hw]

theorem decodeFetch_wf {c : Config} {a : Addr} (h : aligned .word a = true) :
    (decodeFetch c a).wf c = true := by
  cases hw : windowOf c a.toNat <;> simp [decodeFetch, Instr.wf, h, hw]

/-- What decoding answers: a call, or an access at a multiple of its width, fetches being of words
(R72, R73). -/
theorem decode_cases {c : Config} {r : Request} {i : Instr} (h : decode c r = .ok i) :
    decodeCall r = some i ∨
      ∃ w a, aligned w a = true ∧
        (i = decodeRead c w a ∨ i = decodeWrite c w a r.value ∨
          (w = .word ∧ i = decodeFetch c a)) := by
  unfold decode at h
  split at h
  · cases h
  · rename_i hr
    split at h
    · split at h
      · rename_i hi
        cases h
        exact .inl hi
      · cases h
    · rename_i hk
      dsimp only at h
      split at h
      · rename_i ha
        refine .inr ⟨_, _, ha, ?_⟩
        split at h
        · cases h
          exact .inl rfl
        · split at h
          · cases h
            exact .inr (.inl rfl)
          · rename_i h0 h1
            cases h
            refine .inr (.inr ⟨?_, rfl⟩)
            have h2 : descKind r.desc = 2 := by
              generalize descKind r.desc = k at hk h0 h1 ⊢
              revert k
              decide
            have hwc : descWc r.desc = 2 := by
              simpa [reservedRequest, h2] using hr
            rw [hwc]
            rfl
      · cases h

theorem decode_wf {c : Config} {r : Request} {i : Instr} (h : decode c r = .ok i) :
    i.wf c = true := by
  rcases decode_cases h with hc | ⟨w, a, ha, rfl | rfl | ⟨rfl, rfl⟩⟩
  · exact decodeCall_wf hc
  · exact decodeRead_wf ha
  · exact decodeWrite_wf _ ha
  · exact decodeFetch_wf ha

/-! ## Array writes stay inside their array -/

/-- The sizes and bases of both arrays are multiples of 8 (00_scope.md R9). -/
theorem admitted_arrays {c : Config} (h : c.admitted = true) :
    c.romSize % 8 = 0 ∧ c.ramBase % 8 = 0 ∧ c.ramSize % 8 = 0 := by
  simp only [Config.admitted, Config.windowsOk, allHold_cons, Bool.and_eq_true, beq_iff_eq] at h
  tauto

theorem windowOf_ram {c : Config} {a : Nat} (h : windowOf c a = .ram) :
    c.ramBase ≤ a ∧ a < c.ramBase + c.ramSize := by
  unfold windowOf at h
  split at h
  · assumption
  · split at h
    · cases h
    · split at h <;> cases h

theorem windowOf_rom {c : Config} {a : Nat} (h : windowOf c a = .rom) : a < c.romSize := by
  unfold windowOf at h
  split at h
  · cases h
  · split at h
    · cases h
    · split at h
      · assumption
      · cases h

/-- An aligned access that begins inside a range of multiples of 8 ends inside it. -/
theorem aligned_fits {w : Width} {a : Addr} {base size : Nat} (ha : aligned w a = true)
    (hb : base % 8 = 0) (hs : size % 8 = 0) (h : base ≤ a.toNat ∧ a.toNat < base + size) :
    a.toNat - base + w.bytes ≤ size := by
  simp only [aligned, beq_iff_eq] at ha
  cases w <;> simp only [Width.bytes] at ha ⊢ <;> omega

end Sys2Proof

namespace Sys2Proof.Machine

/-- The bytes an instruction writes into an array, and where: WRITE_RAM, WRITE_ROM and BULK_WRITE
write some, no other instruction does (10_state.md R21 to R23). -/
def arrayWrite (c : Config) : Instr → Option (Space × Nat × List Byte)
  | .writeRam w a v => some (.ram, indexOf c .ram a, beBytes w.bytes v)
  | .writeRom w a v => some (.rom, indexOf c .rom a, beBytes w.bytes v)
  | .bulkWrite a bs => (rangeSpace c a bs.length).map fun sp => (sp, indexOf c sp a, bs)
  | _ => none

/-- An instruction that writes into an array is that array's write or a bulk write. -/
theorem arrayWrite_some {c : Config} {i : Instr} {sp : Space} {idx : Nat} {bs : List Byte}
    (h : arrayWrite c i = some (sp, idx, bs)) :
    (∃ w a v, i = .writeRam w a v ∧ sp = .ram ∧ idx = indexOf c .ram a ∧ bs = beBytes w.bytes v) ∨
    (∃ w a v, i = .writeRom w a v ∧ sp = .rom ∧ idx = indexOf c .rom a ∧ bs = beBytes w.bytes v) ∨
    ∃ a, i = .bulkWrite a bs ∧ rangeSpace c a bs.length = some sp ∧ idx = indexOf c sp a := by
  unfold arrayWrite at h
  split at h
  · cases h
    exact .inl ⟨_, _, _, rfl, rfl, rfl, rfl⟩
  · cases h
    exact .inr (.inl ⟨_, _, _, rfl, rfl, rfl, rfl⟩)
  · obtain ⟨sp', hsp, he⟩ := Option.map_eq_some_iff.1 h
    cases he
    exact .inr (.inr ⟨_, rfl, hsp, rfl⟩)
  · cases h

/-- In an admitted configuration a well-formed instruction writes inside the array. -/
theorem arrayWrite_fits {c : Config} {i : Instr} {sp : Space} {idx : Nat} {bs : List Byte}
    (hc : c.admitted = true) (hi : i.wf c = true) (h : arrayWrite c i = some (sp, idx, bs)) :
    idx + bs.length ≤ spaceSize c sp := by
  obtain ⟨hrom, hbase, hram⟩ := admitted_arrays hc
  rcases arrayWrite_some h with
    ⟨w, a, v, rfl, rfl, rfl, rfl⟩ | ⟨w, a, v, rfl, rfl, rfl, rfl⟩ | ⟨a, rfl, hsp, rfl⟩
  · simp only [Instr.wf, Bool.and_eq_true, beq_iff_eq] at hi
    obtain ⟨⟨ha, hw⟩, -⟩ := hi
    rw [length_beBytes]
    exact aligned_fits ha hbase hram (windowOf_ram hw)
  · simp only [Instr.wf, Bool.and_eq_true, beq_iff_eq] at hi
    obtain ⟨⟨ha, hw⟩, -⟩ := hi
    have := windowOf_rom hw
    rw [length_beBytes]
    exact aligned_fits ha (base := 0) (size := c.romSize) rfl hrom (by omega)
  · have := (rangeInside_iff c sp a bs.length).1 (rangeInside_of_rangeSpace hsp)
    simp only [indexOf]
    omega

end Sys2Proof.Machine
end

section
/-! PROOFS. The earliest entry of the event queue (45_host_and_lifecycle.md R143), and the queue's
clause of the invariant entry by entry. -/

namespace Sys2Proof.Machine

/-! ## The earliest entry -/

/-- `best` is the first entry, in firing order, of the sources listed; none if they have none. -/
def EarliestOf (q : Queue) (srcs : List Source) : Option (Source × Slot) → Prop
  | none => ∀ src ∈ srcs, q.slot src = none
  | some (src, e) =>
    q.slot src = some e ∧
      ∀ src' ∈ srcs, ∀ e', q.slot src' = some e' →
        e.due < e'.due ∨ (e.due = e'.due ∧ e.seq ≤ e'.seq)

theorem before_iff (x y : Slot) :
    x.before y = true ↔ x.due < y.due ∨ (x.due = y.due ∧ x.seq < y.seq) := by
  simp [Slot.before]

/-- Looking at one more source keeps the first entry of those looked at. -/
theorem earliestOf_earlierOf {q : Queue} {srcs : List Source} {best : Option (Source × Slot)}
    (src : Source) (h : EarliestOf q srcs best) :
    EarliestOf q (src :: srcs) (earlierOf best src (q.slot src)) := by
  cases hs : q.slot src with
  | none =>
    cases best with
    | none => exact List.forall_mem_cons.2 ⟨hs, h⟩
    | some b => exact ⟨h.1, List.forall_mem_cons.2 ⟨by simp [hs], h.2⟩⟩
  | some x =>
    cases best with
    | none =>
      refine ⟨hs, List.forall_mem_cons.2 ⟨by simp [hs], fun src' hm e' he' => ?_⟩⟩
      exact absurd (h src' hm) (by simp [he'])
    | some b =>
      obtain ⟨hb, hmin⟩ := h
      simp only [earlierOf]
      split
      · rename_i hx
        rw [before_iff] at hx
        refine ⟨hs, List.forall_mem_cons.2 ⟨by simp [hs], fun src' hm e' he' => ?_⟩⟩
        have := hmin src' hm e' he'
        omega
      · rename_i hx
        rw [before_iff] at hx
        refine ⟨hb, List.forall_mem_cons.2 ⟨fun e' he' => ?_, hmin⟩⟩
        cases hs.symm.trans he'
        omega

/-- The queue's earliest entry is the first in firing order (R143). -/
theorem earliest_spec (q : Queue) :
    EarliestOf q [.uartFlush, .uartRxPoll, .uartTx, .prescaler] q.earliest :=
  earliestOf_earlierOf _ (earliestOf_earlierOf _ (earliestOf_earlierOf _ (earliestOf_earlierOf _
    (List.forall_mem_nil _ : EarliestOf q [] none))))

theorem slot_of_earliest {q : Queue} {src : Source} {e : Slot} (h : q.earliest = some (src, e)) :
    q.slot src = some e := by
  have hq := earliest_spec q
  rw [h] at hq
  exact hq.1

theorem earliest_due_le {q : Queue} {src src' : Source} {e e' : Slot}
    (h : q.earliest = some (src, e)) (he' : q.slot src' = some e') : e.due ≤ e'.due := by
  have hq := earliest_spec q
  rw [h] at hq
  have := hq.2 src' (by cases src' <;> simp) e' he'
  omega

theorem slot_of_earliest_none {q : Queue} (h : q.earliest = none) (src : Source) :
    q.slot src = none := by
  have hq := earliest_spec q
  rw [h] at hq
  exact hq src (by cases src <;> simp)

/-! ## The queue's clause of the invariant -/

/-- The queue's clause of the invariant, entry by entry. -/
theorem queueOk_iff (s : State) :
    QueueOk s ↔ ∀ src e, s.sched.queue.slot src = some e →
      s.sched.now ≤ e.due ∧ e.seq < s.sched.nextSeq := by
  simp only [QueueOk, EntryOk, Option.all_eq_true, decide_eq_true_eq]
  exact ⟨fun ⟨hp, ht, hr, hf⟩ src => by cases src <;> assumption,
    fun h => ⟨h .prescaler, h .uartTx, h .uartRxPoll, h .uartFlush⟩⟩

theorem queueOk_of_sched_eq {s t : State} (h : t.sched = s.sched) (hq : QueueOk s) : QueueOk t := by
  rw [queueOk_iff] at hq ⊢
  rwa [h]

theorem queueOk_dequeue {s : State} (src : Source) (h : QueueOk s) : QueueOk (dequeue src s) := by
  rw [queueOk_iff] at h ⊢
  intro src' e he
  by_cases hs : src' = src
  · subst hs
    simp [dequeue_eq] at he
  · rw [dequeue_eq, slot_put_other _ _ hs] at he
    exact h src' e he

theorem queueOk_schedule {s : State} (src : Source) (d : Nat) (h : QueueOk s) :
    QueueOk (schedule src d s) := by
  rw [queueOk_iff] at h ⊢
  intro src' e he
  by_cases hs : src' = src
  · subst hs
    simp only [schedule_eq, slot_put_same, Option.some.injEq] at he
    subst he
    exact ⟨Nat.le_add_right _ _, Nat.lt_succ_self _⟩
  · rw [schedule_eq, slot_put_other _ _ hs] at he
    have := h src' e he
    exact ⟨this.1, by rw [schedule_eq]; exact Nat.lt_succ_of_lt this.2⟩

theorem queueOk_setNow {s : State} {t : Nat} (h : QueueOk s)
    (ht : ∀ src e, s.sched.queue.slot src = some e → t ≤ e.due) : QueueOk (setNow t s) := by
  rw [queueOk_iff] at h ⊢
  exact fun src e he => ⟨ht src e he, (h src e he).2⟩

end Sys2Proof.Machine
end

section
/-! PROOFS. What an event rule does to each clause of the invariant (10_state.md R28 to R34;
45_host_and_lifecycle.md R143). -/

namespace Sys2Proof.Machine

/-! ## Events and the UART mode -/

/-- The source belongs to the UART mode: the prescaler's to both, the others to one each (R28). -/
def Source.inMode (m : UartMode) : Source → Prop
  | .prescaler => True
  | .uartTx => m = .shift
  | .uartRxPoll => m = .shift
  | .uartFlush => m = .buffered

/-- Only sources of the selected mode have entries. -/
theorem inMode_of_slot {s : State} {src : Source} {e : Slot} (h : ModeQueueOk s)
    (he : s.sched.queue.slot src = some e) : src.inMode s.cfg.uartMode := by
  obtain ⟨hb, hs⟩ := h
  cases hm : s.cfg.uartMode with
  | buffered =>
    obtain ⟨ht, hr⟩ := hb hm
    cases src <;> simp_all [Source.inMode, Queue.slot]
  | shift =>
    obtain ⟨hf, -⟩ := hs hm
    cases src <;> simp_all [Source.inMode, Queue.slot]

/-! ## Scheduling -/

/-- How far ahead an event rule schedules its source again (R110, R133, R136, R137). -/
def eventDelay (s : State) : Source → Nat
  | .prescaler => s.pre.scaler.toNat + 1
  | .uartTx => s.cfg.txDelay
  | .uartRxPoll => s.cfg.rxPollInterval
  | .uartFlush => s.cfg.flushInterval

/-- An event rule schedules its source again, but a transmit-complete with no byte held does not. -/
theorem performEvent_sched (src : Source) (s : State) :
    (performEvent src s).sched =
      if src = .uartTx ∧ s.shift.th = true then s.sched
      else (schedule src (eventDelay s src) s).sched := by
  cases src <;> simp only [performEvent]
  · rw [prescalerEvent_eq]
    rfl
  · rw [txEvent_eq]
    cases h : s.shift.th <;> simp [sentSched, h, schedule_eq, eventDelay]
  · rw [rxPollEvent_eq]
    rfl
  · rw [flushEvent_eq]
    rfl

theorem queueOk_performEvent {s : State} (src : Source) (h : QueueOk s) :
    QueueOk (performEvent src s) := by
  have hs := performEvent_sched src s
  split at hs
  · exact queueOk_of_sched_eq hs h
  · exact queueOk_of_sched_eq hs (queueOk_schedule src _ h)

/-! ## The other clauses -/

/-- Raising a level of 1..15 leaves pending bit 0 as it was (42_interrupt_controller.md R96). -/
theorem raisedIc_pending_zero {l : Nat} (hl : 1 ≤ l) (ic : Ic) :
    (raisedIc l ic).pending.getLsbD 0 = ic.pending.getLsbD 0 := by
  have : 0 ≠ l := by omega
  simp only [raisedIc, BitVec.getLsbD_or, getLsbD_levelBit, this, decide_false, Bool.and_false,
    Bool.or_false]

theorem tickedIc_pending_zero {l : Nat} (hl : 1 ≤ l) (c : Channel) (ic : Ic) :
    (tickedIc l c ic).pending.getLsbD 0 = ic.pending.getLsbD 0 := by
  unfold tickedIc
  split
  · exact raisedIc_pending_zero hl ic
  · rfl

theorem interruptsOk_performEvent {s : State} (src : Source) (ha : s.cfg.admitted = true)
    (h : InterruptsOk s) : InterruptsOk (performEvent src s) := by
  obtain ⟨h1, -, h2, -, hu, -⟩ := admitted_levels ha
  obtain ⟨h0, hn⟩ := h
  cases src <;> simp only [performEvent]
  · refine ⟨?_, prescalerEvent_last s hn⟩
    rw [prescalerEvent_eq]
    simp only [tickedIc_pending_zero, h1, h2, h0]
  · rw [txEvent_eq]
    refine ⟨?_, noticesAfter_last _ _ hn⟩
    unfold sentIc
    split
    · exact (raisedIc_pending_zero hu _).trans h0
    · exact h0
  · rw [rxPollEvent_eq]
    cases hostBytes 1 s with
    | nil => exact ⟨h0, hn⟩
    | cons b bs => exact ⟨(raisedIc_pending_zero hu _).trans h0, noticesAfter_last _ _ hn⟩
  · rw [flushEvent_eq]
    exact ⟨h0, hn⟩

theorem bufferedOk_performEvent {s : State} (src : Source) (h : BufferedOk s) :
    BufferedOk (performEvent src s) := by
  cases src <;> simp only [performEvent]
  · rw [prescalerEvent_eq]
    exact h
  · rw [txEvent_eq]
    exact h
  · rw [rxPollEvent_eq]
    exact h
  · rw [flushEvent_eq]
    obtain ⟨hc, hf, hi, -⟩ := h
    exact ⟨hc, hf, hi, Nat.zero_le _⟩

theorem shiftOk_performEvent {s : State} (src : Source) (h : ShiftOk s) :
    ShiftOk (performEvent src s) := by
  cases src <;> simp only [performEvent]
  · rw [prescalerEvent_eq]
    exact h
  · rw [txEvent_eq]
    cases hth : s.shift.th <;> simp [ShiftOk, sentShift, hth]
  · rw [rxPollEvent_eq]
    cases hostBytes 1 s <;> exact h
  · rw [flushEvent_eq]
    exact h

theorem modeQueueOk_performEvent {s : State} {src : Source} (hm : src.inMode s.cfg.uartMode)
    (hs : ShiftOk s) (h : ModeQueueOk s) : ModeQueueOk (performEvent src (dequeue src s)) := by
  cases src <;> simp only [performEvent]
  · rw [prescalerEvent_eq]
    exact h
  · rw [txEvent_eq]
    obtain ⟨hf, -⟩ := h.2 hm
    refine ⟨fun hb => ?_, fun _ => ?_⟩
    · exact absurd (hm.symm.trans hb) (by decide)
    · cases hth : s.shift.th
      · have hts := hs hth
        simp [sentSched, sentShift, dequeue_eq, Queue.put, hth, hts, hf]
      · simp [sentSched, sentShift, dequeue_eq, Queue.put, hth, hf]
  · rw [rxPollEvent_eq]
    refine ⟨fun hb => ?_, fun _ => ?_⟩
    · exact absurd (hm.symm.trans hb) (by decide)
    · have := h.2 hm
      cases hostBytes 1 (dequeue .uartRxPoll s) <;> exact this
  · rw [flushEvent_eq]
    refine ⟨fun _ => h.1 hm, fun hb => ?_⟩
    exact absurd (hm.symm.trans hb) (by decide)

theorem prescalerOk_performEvent {s : State} (src : Source) (h : PrescalerOk s) :
    PrescalerOk (performEvent src (dequeue src s)) := by
  cases src <;> simp only [performEvent]
  · rw [prescalerEvent_eq]
    refine ⟨le_rfl, ?_⟩
    simp only [Queue.put, Option.all_some, decide_eq_true_eq]
    omega
  · rw [txEvent_eq]
    unfold sentSched
    split <;> exact h
  · rw [rxPollEvent_eq]
    exact h
  · rw [flushEvent_eq]
    exact h

theorem periodicOk_performEvent {s : State} (src : Source) (h : PeriodicOk s) :
    PeriodicOk (performEvent src (dequeue src s)) := by
  cases src <;> simp only [performEvent]
  · rw [prescalerEvent_eq]
    exact fun hp => ⟨rfl, (h hp).2⟩
  · rw [txEvent_eq]
    unfold sentSched
    split <;> exact h
  · rw [rxPollEvent_eq]
    exact fun hp => ⟨(h hp).1, .inr rfl⟩
  · rw [flushEvent_eq]
    exact fun hp => ⟨(h hp).1, .inl rfl⟩

/-- An event of the selected mode keeps the invariant, its source's entry removed before. -/
theorem inv_performEvent {s : State} {src : Source} (hm : src.inMode s.cfg.uartMode) (h : s.Inv) :
    (performEvent src (dequeue src s)).Inv := by
  obtain ⟨ha, hmem, hint, hbuf, hsh, hq, hmq, hpre, hper, hcl⟩ := h
  have hfr := performEvent_frame src (dequeue src s)
  refine ⟨?_, ?_, interruptsOk_performEvent src ha hint, bufferedOk_performEvent src hbuf,
    shiftOk_performEvent src hsh, queueOk_performEvent src (queueOk_dequeue src hq),
    modeQueueOk_performEvent hm hsh hmq, prescalerOk_performEvent src hpre,
    periodicOk_performEvent src hper, ?_⟩
  · rw [hfr.cfg]
    exact ha
  · rw [MemoryOk, hfr.rom, hfr.ram, hfr.cfg]
    exact hmem
  · rw [ClosedOk, hfr.phase, hfr.inOpen, hfr.outOpen]
    exact hcl

end Sys2Proof.Machine
end

section
/-! PROOFS. The updates every operation is made of, and what each of them keeps: the configuration,
the two arrays, the bytes given to the host, the order of time and the invariant. -/

namespace Sys2Proof.Machine

/-! ## Reset -/

/-- What every operation but an array write keeps: the configuration and both arrays stay, and the
host keeps the bytes it was given (10_state.md R21, R22, R28, R35). -/
structure UpdateFrame (s t : State) : Prop where
  cfg : t.cfg = s.cfg
  rom : t.rom = s.rom
  ram : t.ram = s.ram
  emitted : s.host.emitted <+: t.host.emitted

theorem UpdateFrame.refl (s : State) : UpdateFrame s s := ⟨rfl, rfl, rfl, List.prefix_rfl⟩

theorem UpdateFrame.trans {s t u : State} (h : UpdateFrame s t) (h' : UpdateFrame t u) :
    UpdateFrame s u :=
  ⟨h'.cfg.trans h.cfg, h'.rom.trans h.rom, h'.ram.trans h.ram, h.emitted.trans h'.emitted⟩

theorem resetCore_frame (s : State) : UpdateFrame s (resetCore s) := by
  cases hm : s.cfg.uartMode with
  | buffered =>
    rw [resetCore_buffered s hm]
    refine ⟨rfl, rfl, rfl, ?_⟩
    dsimp only
    split
    · exact emittedAfter_prefix _ _
    · exact List.prefix_rfl
  | shift =>
    rw [resetCore_shift s hm]
    exact ⟨rfl, rfl, rfl, List.prefix_rfl⟩

/-- Reset takes no virtual time. -/
theorem resetCore_now (s : State) : (resetCore s).sched.now = s.sched.now := by
  cases hm : s.cfg.uartMode with
  | buffered => rw [resetCore_buffered s hm]
  | shift => rw [resetCore_shift s hm]

theorem queueOk_resetCore (s : State) : QueueOk (resetCore s) := by
  cases hm : s.cfg.uartMode with
  | buffered =>
    rw [resetCore_buffered s hm]
    simp [QueueOk, EntryOk]
  | shift =>
    rw [resetCore_shift s hm]
    simp [QueueOk, EntryOk]

/-- After reset the periodic events are pending, whatever the phase (R171). -/
theorem periodic_resetCore (s : State) :
    (resetCore s).sched.queue.prescaler.isSome = true ∧
      ((resetCore s).sched.queue.uartFlush.isSome = true ∨
        (resetCore s).sched.queue.uartRxPoll.isSome = true) := by
  cases hm : s.cfg.uartMode with
  | buffered =>
    rw [resetCore_buffered s hm]
    exact ⟨rfl, .inl rfl⟩
  | shift =>
    rw [resetCore_shift s hm]
    exact ⟨rfl, .inr rfl⟩

theorem inv_resetCore {s : State} (hc : s.phase ≠ .closed) (h : s.Inv) : (resetCore s).Inv := by
  have hq := queueOk_resetCore s
  have hper := periodic_resetCore s
  obtain ⟨ha, hmem, ⟨-, hn⟩, hbuf, hsh, -⟩ := h
  cases hm : s.cfg.uartMode with
  | buffered =>
    rw [resetCore_buffered s hm] at hq hper ⊢
    refine ⟨ha, hmem, ⟨BitVec.getLsbD_zero, noticesAfter_last _ _ hn⟩, by simp [BufferedOk], hsh, hq,
      ⟨fun _ => ⟨rfl, rfl⟩, fun hb => ?_⟩, ⟨le_rfl, ?_⟩, fun _ => hper, fun h => absurd h hc⟩
    · exact absurd (hm.symm.trans hb) (by decide)
    · simp [Nat.add_assoc]
  | shift =>
    rw [resetCore_shift s hm] at hq hper ⊢
    refine ⟨ha, hmem, ⟨BitVec.getLsbD_zero, noticesAfter_last _ _ hn⟩, hbuf, nofun, hq,
      ⟨fun hb => ?_, fun _ => ⟨rfl, rfl⟩⟩, ⟨le_rfl, ?_⟩, fun _ => hper, fun h => absurd h hc⟩
    · exact absurd (hm.symm.trans hb) (by decide)
    · simp [Nat.add_assoc]

/-! ## Updates -/

/-- ONE UPDATE an operation makes outside the two arrays. Where the invariant has a clause on what is
updated, the update carries what that clause needs. -/
inductive Update (s : State) : State → Prop
  | response (r : Response) : Update s (respond r s)
  | draws (n : Nat) : Update s (drew n s)
  | waiting (b : Bool) : Update s (s.setWaiting b)
  | inbox (ms : List Move) : Update s (s.setInbox ms)
  | ccr (v : Word) : Update s (s.setCcr v)
  | channel (n : Chan) (c : Channel) : Update s (setChannel n c s)
  | hostIn (as : List (List Byte)) (n : Nat) : Update s ((s.setAnswers as).setHostReads n)
  | latches (ic : Ic)
      (h : s.cfg.admitted = true → s.ic.pending.getLsbD 0 = false →
        ic.pending.getLsbD 0 = false) : Update s (setLatches ic s)
  | buf (u : BufferedUart)
      (h : s.cfg.admitted = true → BufferedOk s → BufferedOk (s.setBuf u)) : Update s (s.setBuf u)
  | shift (u : ShiftUart) (hts : u.ts = s.shift.ts) (h : ShiftOk s → ShiftOk (s.setShift u)) :
      Update s (s.setShift u)
  | transmit (u : ShiftUart) (hm : s.cfg.uartMode = .shift) (hts : u.ts = false) :
      Update s (schedule .uartTx s.cfg.txDelay (s.setShift u))
  | host (p : HostPort) (he : s.host.emitted <+: p.emitted)
      (h : ClosedOk s → ClosedOk (s.setHost p)) : Update s (s.setHost p)
  | phase (p : Phase) (hper : PeriodicOk (s.setPhase p)) (hcl : ClosedOk (s.setPhase p)) :
      Update s (s.setPhase p)
  | prescaler (v : Half) : Update s (loadPrescaler v s)
  | event (src : Source)
      (h : src.inMode s.cfg.uartMode ∨ (s.sched.queue.slot src).isSome = true) :
      Update s (performEvent src (dequeue src s))
  | time (t : Nat) (hnow : QueueOk s → s.sched.now ≤ t)
      (hdue : ∀ src e, s.sched.queue.slot src = some e → t ≤ e.due) : Update s (setNow t s)
  | reset (h : s.phase ≠ .closed) : Update s (resetCore s)

namespace Update
variable {s t : State}

theorem frame (h : Update s t) : UpdateFrame s t := by
  cases h with
  | channel n c => cases n <;> exact ⟨rfl, rfl, rfl, List.prefix_rfl⟩
  | host p he h => exact ⟨rfl, rfl, rfl, he⟩
  | event src h =>
    have hf := performEvent_frame src (dequeue src s)
    exact ⟨hf.cfg, hf.rom, hf.ram, hf.emitted⟩
  | reset h => exact resetCore_frame s
  | _ => exact ⟨rfl, rfl, rfl, List.prefix_rfl⟩

theorem queueOk (h : Update s t) (hq : QueueOk s) : QueueOk t := by
  cases h with
  | channel n c => cases n <;> exact hq
  | transmit u hm hts => exact queueOk_schedule _ _ hq
  | prescaler v => exact queueOk_schedule _ _ hq
  | event src h => exact queueOk_performEvent src (queueOk_dequeue src hq)
  | time t hnow hdue => exact queueOk_setNow hq hdue
  | reset h => exact queueOk_resetCore s
  | _ => exact hq

theorem now_le (h : Update s t) (hq : QueueOk s) : s.sched.now ≤ t.sched.now := by
  cases h with
  | channel n c => cases n <;> exact le_rfl
  | event src h => exact (performEvent_frame src (dequeue src s)).now.ge
  | time t hnow hdue => exact hnow hq
  | reset h => exact (resetCore_now s).ge
  | _ => exact le_rfl

/-- Every update keeps the invariant. -/
theorem inv (h : Update s t) (hs : s.Inv) : t.Inv := by
  have hs' := hs
  obtain ⟨ha, hmem, hint, hbuf, hsh, hq, hmq, hpre, hper, hcl⟩ := hs'
  have hq' := h.queueOk hq
  cases h with
  | channel n c => cases n <;> exact hs
  | latches ic h =>
    exact ⟨ha, hmem, ⟨h ha hint.1, noticesAfter_last _ _ hint.2⟩, hbuf, hsh, hq, hmq, hpre, hper,
      hcl⟩
  | buf u h => exact ⟨ha, hmem, hint, h ha hbuf, hsh, hq, hmq, hpre, hper, hcl⟩
  | shift u hts h =>
    refine ⟨ha, hmem, hint, hbuf, h hsh, hq, ⟨hmq.1, fun hm => ?_⟩, hpre, hper, hcl⟩
    exact ⟨(hmq.2 hm).1, (hmq.2 hm).2.trans (congrArg _ hts.symm)⟩
  | transmit u hm hts =>
    refine ⟨ha, hmem, hint, hbuf, fun _ => hts, hq', ⟨fun hb => ?_, fun _ => ⟨(hmq.2 hm).1, ?_⟩⟩,
      hpre, hper, hcl⟩
    · exact absurd (hm.symm.trans hb) (by decide)
    · simp [schedule_eq, Queue.put, hts]
  | host p he h => exact ⟨ha, hmem, hint, hbuf, hsh, hq, hmq, hpre, hper, h hcl⟩
  | phase p hper hcl => exact ⟨ha, hmem, hint, hbuf, hsh, hq, hmq, hpre, hper, hcl⟩
  | prescaler v =>
    refine ⟨ha, hmem, hint, hbuf, hsh, hq', hmq, ⟨le_rfl, ?_⟩, fun hp => ⟨rfl, (hper hp).2⟩, hcl⟩
    simp [loadPrescaler_eq, Queue.put, Nat.add_assoc]
  | event src h =>
    refine inv_performEvent ?_ hs
    rcases h with h | h
    · exact h
    · obtain ⟨e, he⟩ := Option.isSome_iff_exists.1 h
      exact inMode_of_slot hmq he
  | time t hnow hdue =>
    exact ⟨ha, hmem, hint, hbuf, hsh, hq', hmq, ⟨hpre.1.trans (hnow hq), hpre.2⟩, hper, hcl⟩
  | reset h => exact inv_resetCore h hs
  | _ => exact hs

end Update

/-- Updates one after another. -/
abbrev Updates : State → State → Prop := Relation.ReflTransGen Update

namespace Updates
variable {s t : State}

theorem frame (h : Updates s t) : UpdateFrame s t := by
  induction h with
  | refl => exact .refl s
  | tail _ hu ih => exact ih.trans hu.frame

/-- Where no entry is overdue, time does not decrease and none is afterwards. -/
theorem time (h : Updates s t) (hq : QueueOk s) : QueueOk t ∧ s.sched.now ≤ t.sched.now := by
  induction h with
  | refl => exact ⟨hq, le_rfl⟩
  | tail _ hu ih => exact ⟨hu.queueOk ih.1, ih.2.trans (hu.now_le ih.1)⟩

theorem inv (h : Updates s t) (hs : s.Inv) : t.Inv := by
  induction h with
  | refl => exact hs
  | tail _ hu ih => exact hu.inv ih

end Updates

end Sys2Proof.Machine
end

section
/-! PROOFS. Everything an operation and a step do, as updates: an array write, or updates outside the
two arrays. -/

namespace Sys2Proof.Machine

/-! ## Shared operations -/

section
variable (s : State)

theorem update_raise {l : Nat} (hl : s.cfg.admitted = true → 1 ≤ l) : Update s (raise l s) :=
  .latches _ fun ha h0 => (raisedIc_pending_zero (hl ha) _).trans h0

theorem one_le_irqUart {c : Config} (h : c.admitted = true) : 1 ≤ c.irqUart := by
  obtain ⟨-, -, -, -, hu, -⟩ := admitted_levels h
  exact hu

theorem update_raiseUart : Update s (raiseUart s) := update_raise s one_le_irqUart

theorem one_le_of_levelOk {l : Byte} (h : levelOk l = true) : 1 ≤ l.toNat := by
  simp only [levelOk, Bool.and_eq_true, decide_eq_true_eq] at h
  exact h.1

/-- Acknowledging clears bits only (R99). -/
theorem update_acknowledge (l : Nat) : Update s (acknowledge l s) := by
  refine .latches _ fun _ h0 => ?_
  unfold acknowledgedIc
  split <;> simp_all

theorem update_hostWrite (bs : List Byte) : Update s (hostWrite bs s) :=
  .host _ (emittedAfter_prefix bs s.host) id

theorem updates_flushOutput : Updates s (flushOutput s) := by
  refine .tail (.single (update_hostWrite s s.buf.outbuf)) (.buf _ ?_)
  rintro - ⟨hc, hf, hi, -⟩
  exact ⟨hc, hf, hi, Nat.zero_le _⟩

theorem updates_haltCore : Updates s (haltCore s) := by
  unfold haltCore
  split
  · exact updates_flushOutput s
  · exact .refl

theorem updates_shutdownCore : Updates s (shutdownCore s) := by
  refine .tail ((updates_haltCore s).tail (.host _ ?_ ?_)) (.phase .closed ?_ ?_)
  · exact List.prefix_rfl
  · exact fun _ _ => ⟨rfl, rfl⟩
  · exact fun hp => by cases hp
  · exact fun _ => ⟨rfl, rfl⟩

theorem updates_bootCore : Updates s (bootCore s) :=
  .tail (.single (.prescaler _)) (.channel .one _)

/-! ## The buffered UART -/

theorem bufferedOk_refilledBuf (h : BufferedOk s) : BufferedOk (s.setBuf (refilledBuf s)) := by
  obtain ⟨hc, hf, hi, ho⟩ := h
  have hl := hostBytes_length s.cfg.bufCap s
  unfold refilledBuf
  split
  · simp only [BufferedOk, setBuf_buf, setBuf_cfg, List.length_append, List.length_drop]
    omega
  · exact ⟨hc, hf, hi, ho⟩

theorem updates_refill : Updates s (refill s) := by
  rw [refill_eq]
  exact .tail (.single (.buf (refilledBuf s) fun _ => bufferedOk_refilledBuf s)) (.hostIn _ _)

theorem updates_consumeByte (h : s.buf.dataReady = true) : Updates s (consumeByte s) := by
  have hb : Update s (s.setBuf { s.buf with inConsume := s.buf.inConsume + 1 }) := by
    refine .buf _ ?_
    rintro - ⟨-, hf, hi, ho⟩
    simp only [BufferedUart.dataReady, decide_eq_true_eq] at h
    exact ⟨h, hf, hi, ho⟩
  unfold consumeByte
  dsimp only
  split
  · exact .tail (.single hb) (update_raiseUart _)
  · exact .single hb

end

/-! ## Outcomes -/

/-- The next state an outcome answers, if it answers one, is reached from `s` by updates. -/
def ReachedFrom (s : State) (o : Result) : Prop := ∀ t, o = .next t → Updates s t

section
variable {s u : State}

theorem reachedFrom_next (h : Updates s u) : ReachedFrom s (.next u) := by
  rintro t ⟨⟩
  exact h

theorem reachedFrom_refused (s : State) (r : Refusal) : ReachedFrom s (.refused r) :=
  fun _ h => by cases h

theorem reachedFrom_fault (s : State) (f : Fault) : ReachedFrom s (.fault f) :=
  fun _ h => by cases h

theorem reachedFrom_answer (h : Updates s u) (r : Response) :
    ReachedFrom s (.next (respond r u)) :=
  reachedFrom_next (h.tail (.response r))

theorem reachedFrom_finish (h : Updates s u) : ReachedFrom s (finish u) := reachedFrom_answer h _

theorem reachedFrom_returnWord (h : Updates s u) (n : Nat) (v : Word) :
    ReachedFrom s (returnWord v (drew n u)) :=
  reachedFrom_answer (h.tail (.draws n)) _

theorem reachedFrom_returnWritten (h : Updates s u) : ReachedFrom s (returnWritten u) :=
  reachedFrom_answer h _

end

/-! ## The UART's operations -/

section
variable (s : State)

theorem reachedFrom_bufferedDataRead : ReachedFrom s (bufferedDataRead s) := by
  unfold bufferedDataRead
  refine reachedFrom_returnWord ?_ 2 _
  split
  · exact (updates_refill s).trans (updates_consumeByte _ ‹_›)
  · exact updates_refill s

/-- A byte appended to an output buffer that is not full leaves it within its bound (R29, R132). -/
theorem bufferedOk_append {s : State} {b : Byte} (h : BufferedOk s)
    (hl : s.buf.outbuf.length ≠ s.cfg.bufCap) :
    BufferedOk (s.setBuf { s.buf with outbuf := s.buf.outbuf ++ [b] }) := by
  obtain ⟨hc, hf, hi, ho⟩ := h
  refine ⟨hc, hf, hi, ?_⟩
  simp only [setBuf_buf, setBuf_cfg, List.length_append, List.length_singleton]
  omega

theorem reachedFrom_bufferedDataWrite (v : Word) : ReachedFrom s (bufferedDataWrite v s) := by
  unfold bufferedDataWrite
  refine reachedFrom_returnWritten (.tail ?_ (update_raiseUart _))
  split
  · refine (updates_flushOutput s).tail (.buf _ fun ha h => bufferedOk_append h ?_)
    have := (admitted_times ha).1
    simp only [flushOutput_eq, List.length_nil] at this ⊢
    omega
  · exact .single (.buf _ fun _ h => bufferedOk_append h ‹_›)

theorem reachedFrom_bufferedStatusRead : ReachedFrom s (bufferedStatusRead s) := by
  have hr := updates_refill s
  unfold bufferedStatusRead
  refine reachedFrom_returnWord (hr.tail (.latches _ fun ha h0 => ?_)) 2 _
  split
  · rw [hr.frame.cfg] at ha
    exact (raisedIc_pending_zero (one_le_irqUart ha) _).trans h0
  · exact h0

theorem reachedFrom_execReadUartData : ReachedFrom s (execReadUartData s) := by
  unfold execReadUartData
  split
  · exact reachedFrom_bufferedDataRead s
  · refine reachedFrom_returnWord (.single (.shift _ ?_ ?_)) 1 _
    · rfl
    · exact id

theorem reachedFrom_execWriteUartData (v : Word) : ReachedFrom s (execWriteUartData v s) := by
  unfold execWriteUartData
  split
  · exact reachedFrom_bufferedDataWrite s v
  · rename_i hm
    unfold shiftDataWrite
    split
    · exact reachedFrom_returnWritten (.single (.transmit _ hm rfl))
    · rename_i hts
      exact reachedFrom_returnWritten
        (.single (.shift _ rfl fun _ _ => Bool.not_eq_true _ ▸ hts))

theorem reachedFrom_execReadUartStatus : ReachedFrom s (execReadUartStatus s) := by
  unfold execReadUartStatus
  split
  · exact reachedFrom_bufferedStatusRead s
  · exact reachedFrom_returnWord .refl 1 _

/-! ## Events and the scheduler -/

/-- An event of the selected mode that a request presents runs at once (log entry 11). -/
theorem reachedFrom_event {src : Source} (h : src.inMode s.cfg.uartMode) :
    ReachedFrom s (finish (performEvent src (dequeue src s))) :=
  reachedFrom_finish (.single (.event src (.inl h)))

theorem reachedFrom_execEvUartTx : ReachedFrom s (execEvUartTx s) := by
  unfold execEvUartTx
  split
  · exact reachedFrom_event s (src := .uartTx) ‹_›
  · exact reachedFrom_refused s _

theorem reachedFrom_execEvUartRxPoll : ReachedFrom s (execEvUartRxPoll s) := by
  unfold execEvUartRxPoll
  split
  · exact reachedFrom_event s (src := .uartRxPoll) ‹_›
  · exact reachedFrom_refused s _

theorem reachedFrom_execEvUartFlush : ReachedFrom s (execEvUartFlush s) := by
  unfold execEvUartFlush
  split
  · exact reachedFrom_event s (src := .uartFlush) ‹_›
  · exact reachedFrom_refused s _

/-- The earliest entry fires at its due time, which no other entry precedes (R143). -/
theorem updates_fire {s : State} {src : Source} {e : Slot}
    (he : s.sched.queue.earliest = some (src, e)) : Updates s (fire src e.due s) := by
  have hs := slot_of_earliest he
  refine .tail (.single (.time e.due (fun hq => ((queueOk_iff s).1 hq src e hs).1)
    fun _ _ => earliest_due_le he)) (.event src (.inr ?_))
  exact Option.isSome_iff_exists.2 ⟨e, hs⟩

/-- Time may pass up to the earliest entry's due time. -/
theorem update_setNow {s : State} {t : Nat} (hnow : s.sched.now ≤ t)
    (h : s.sched.queue.earliest = none ∨
      ∃ src e, s.sched.queue.earliest = some (src, e) ∧ t ≤ e.due) : Update s (setNow t s) := by
  refine .time t (fun _ => hnow) fun src' e' he' => ?_
  rcases h with h | ⟨src, e, he, hd⟩
  · exact absurd (slot_of_earliest_none h src') (by simp [he'])
  · exact hd.trans (earliest_due_le he he')

theorem reachedFrom_schedulerMove : ReachedFrom s (schedulerMove s) := by
  intro t h
  rcases schedulerMove_cases h with ⟨src, e, he, -, rfl⟩ | ⟨rfl, hd⟩
  · exact updates_fire he
  · refine .single (update_setNow (Nat.le_succ _) ?_)
    exact hd.imp_right fun ⟨src, e, he, hlt⟩ => ⟨src, e, he, hlt⟩

theorem reachedFrom_waitTurn : ReachedFrom s (waitTurn s) := by
  intro t h
  rcases waitTurn_cases h with ⟨-, rfl⟩ | ⟨src, e, -, he, ⟨-, rfl⟩ | ⟨-, rfl⟩⟩
  · exact .tail (.single (.waiting false)) (.response _)
  · exact ((updates_fire he).tail (.waiting false)).tail (.response _)
  · exact ((updates_fire he).tail (.waiting true)).tail (.response _)

theorem reachedFrom_schedulerTurn : ReachedFrom s (schedulerTurn s) := by
  unfold schedulerTurn
  split
  · exact reachedFrom_waitTurn s
  · exact reachedFrom_schedulerMove s

theorem updates_advanceTo {s t : State} {fuel T : Nat} (hT : s.sched.now ≤ T)
    (h : advanceTo fuel T s = some t) : Updates s t := by
  obtain ⟨u, ⟨hu, hnow⟩, rfl, hd⟩ :=
    advanceTo_induct (P := fun u => Updates s u ∧ u.sched.now ≤ T)
      (fun u src e hu he hd => ⟨hu.1.trans (updates_fire he), (fire_now src e.due u).trans_le hd⟩)
      fuel s t ⟨.refl, hT⟩ h
  refine hu.tail (update_setNow hnow ?_)
  exact hd.imp_right fun ⟨src, e, he, hlt⟩ => ⟨src, e, he, hlt.le⟩

theorem reachedFrom_execAdvance (n : Nat) : ReachedFrom s (execAdvance n s) := by
  unfold execAdvance
  dsimp only
  split
  · rename_i ha
    exact reachedFrom_finish (updates_advanceTo (Nat.le_add_right _ _) ha)
  · exact reachedFrom_fault s _

/-! ## Lifecycle -/

theorem reachedFrom_execReset : ReachedFrom s (execReset s) := by
  unfold execReset
  split
  · exact reachedFrom_refused s _
  · exact reachedFrom_finish (.single (.reset ‹_›))

/-- Reset before the phase becomes `ready` leaves the periodic events pending for it (R150, R171). -/
theorem updates_resetReady {s : State} (h : s.phase ≠ .closed) :
    Updates s ((resetCore s).setPhase .ready) := by
  refine .tail (.single (.reset h)) (.phase .ready ?_ ?_)
  · exact fun _ => periodic_resetCore s
  · simp [ClosedOk]

theorem reachedFrom_execInit : ReachedFrom s (execInit s) := by
  unfold execInit
  split
  · rename_i hp
    have hc : s.phase ≠ .closed := by simp [hp]
    have hb : Update s (s.setHost
        (bindHost s.cfg.hostKind (freeBit s 0) (freeBit s 1) (freeBit s 2) s.host)) :=
      .host _ List.prefix_rfl fun _ h => absurd h hc
    exact reachedFrom_finish (.trans (.tail (.single hb) (.draws 3)) (updates_resetReady hc))
  · exact reachedFrom_fault s _

theorem reachedFrom_execShutdown : ReachedFrom s (execShutdown s) := by
  unfold execShutdown
  split
  · exact reachedFrom_finish .refl
  · exact reachedFrom_finish (updates_shutdownCore s)

end

/-! ## The dispatcher -/

/-- `t` is the answer to a write of `i`'s bytes into their array. -/
def WritesArray (i : Instr) (s t : State) : Prop :=
  ∃ sp idx bs r, arrayWrite s.cfg i = some (sp, idx, bs) ∧ t = respond r (writeBytes sp idx bs s)

theorem execWriteRom_cases {w : Width} {a : Addr} {v : Double} {s t : State}
    (h : execWriteRom w a v s = .next t) : WritesArray (.writeRom w a v) s t ∨ Updates s t := by
  unfold execWriteRom at h
  split at h
  · cases h
    exact .inl ⟨_, _, _, _, rfl, rfl⟩
  · exact .inr (reachedFrom_answer .refl _ t h)

theorem execBulkWrite_cases {a : Addr} {bs : List Byte} {s t : State}
    (h : execBulkWrite a bs s = .next t) : WritesArray (.bulkWrite a bs) s t ∨ Updates s t := by
  unfold execBulkWrite at h
  split at h
  · exact .inr (reachedFrom_finish .refl t h)
  · split at h
    · rename_i sp hsp
      cases h
      exact .inl ⟨sp, _, bs, _, by simp only [arrayWrite, hsp, Option.map_some], rfl⟩
    · exact .inr (reachedFrom_answer .refl _ t h)

theorem reachedFrom_execBulkRead (a : Addr) (len : Nat) (s : State) :
    ReachedFrom s (execBulkRead a len s) := by
  unfold execBulkRead
  split
  · exact reachedFrom_answer .refl _
  · split <;> exact reachedFrom_answer .refl _

/-- Everything an operation does when it answers a next state: it writes an array, or it makes updates
outside both arrays. -/
theorem exec_cases {i : Instr} {s t : State} (h : exec i s = .next t) :
    WritesArray i s t ∨ Updates s t := by
  cases i with
  | writeRam w a v =>
    cases h
    exact .inl ⟨_, _, _, _, rfl, rfl⟩
  | writeRom w a v => exact execWriteRom_cases h
  | bulkWrite a bs => exact execBulkWrite_cases h
  | writeIrqPending | writePreValue | writeUartStatus | writeApbUnassigned => cases h
  | readRam | readRom | readUnmapped | writeUnmapped | readApbB | writeApbB | readApbH | writeApbH
  | readApbD | writeApbD | readCcr | ifetchRam | ifetchRom | ifetchOther | irqPoll
  | readT1Counter | readT2Counter | readT1Reload | readT2Reload =>
    exact .inr (reachedFrom_answer .refl _ t h)
  | readIrqMask | readIrqPending | readIrqForce | readIrqClear | readPreReload | readT1Control
  | readT2Control | readApbUnassigned =>
    exact .inr (reachedFrom_returnWord .refl 1 _ t h)
  | readPreValue => exact .inr (reachedFrom_returnWord .refl 2 _ t h)
  | writeCcr v => exact .inr (reachedFrom_returnWritten (.single (.ccr v)) t h)
  | writeT1Counter | writeT1Reload | writeT1Control =>
    exact .inr (reachedFrom_returnWritten (.single (.channel .one _)) t h)
  | writeT2Counter | writeT2Reload | writeT2Control =>
    exact .inr (reachedFrom_returnWritten (.single (.channel .two _)) t h)
  | writeIrqMask | writeIrqForce =>
    refine .inr (reachedFrom_returnWritten (.single (.latches _ fun _ h0 => ?_)) t h)
    exact h0
  | writeIrqClear v =>
    refine .inr (reachedFrom_returnWritten (.single (.latches _ fun _ h0 => ?_)) t h)
    simp only [BitVec.getLsbD_and, h0, Bool.false_and]
  | writePreReload v => exact .inr (reachedFrom_returnWritten (.single (.prescaler _)) t h)
  | irqRaise l =>
    simp only [exec, execIrqRaise] at h
    split at h
    · exact .inr (reachedFrom_finish
        (.single (update_raise s fun _ => one_le_of_levelOk ‹_›)) t h)
    · cases h
  | irqAck l =>
    simp only [exec, execIrqAck] at h
    split at h
    · exact .inr (reachedFrom_finish (.single (update_acknowledge s _)) t h)
    · cases h
  | readUartData => exact .inr (reachedFrom_execReadUartData s t h)
  | writeUartData v => exact .inr (reachedFrom_execWriteUartData s v t h)
  | readUartStatus => exact .inr (reachedFrom_execReadUartStatus s t h)
  | evPrescaler => exact .inr (reachedFrom_event s (src := .prescaler) trivial t h)
  | evUartTx => exact .inr (reachedFrom_execEvUartTx s t h)
  | evUartRxPoll => exact .inr (reachedFrom_execEvUartRxPoll s t h)
  | evUartFlush => exact .inr (reachedFrom_execEvUartFlush s t h)
  | init => exact .inr (reachedFrom_execInit s t h)
  | reset => exact .inr (reachedFrom_execReset s t h)
  | bootInit => exact .inr (reachedFrom_finish (updates_bootCore s) t h)
  | halt => exact .inr (reachedFrom_finish (updates_haltCore s) t h)
  | shutdown => exact .inr (reachedFrom_execShutdown s t h)
  | bulkRead a len => exact .inr (reachedFrom_execBulkRead a len s t h)
  | waitForInterrupt => exact .inr (reachedFrom_waitTurn s t h)
  | advance n => exact .inr (reachedFrom_execAdvance s n t h)

/-- Everything a step does when it answers a next state: the CPU's decoded operation writes an array,
or all it does is updates outside both arrays. -/
theorem step_writes_or_updates {s t : State} (h : step s = .next t) :
    (∃ r rest i, decode s.cfg r = .ok i ∧ WritesArray i (s.setInbox rest) t) ∨ Updates s t := by
  obtain ⟨-, ⟨-, h⟩ | ⟨rest, -, h⟩ | ⟨l, rest, -, hl, rfl⟩ | ⟨r, rest, -, -, h⟩ |
    ⟨r, rest, i, -, -, hd, h⟩⟩ := step_cases h
  · exact .inr (reachedFrom_schedulerTurn s t h)
  · exact .inr (.head (.inbox rest) (reachedFrom_schedulerTurn _ t h))
  · exact .inr (.head (.inbox rest) (.single (update_raise _ fun _ => one_le_of_levelOk hl)))
  · exact .inr (reachedFrom_waitTurn s t h)
  · rcases exec_cases h with hw | hu
    · exact .inl ⟨r, rest, i, hd, hw⟩
    · exact .inr (.head (.inbox rest) hu)

end Sys2Proof.Machine
end

section
/-! PROOFS. What every step keeps: the invariant of the core, the configuration, the order of time,
the bytes given to the host, and the two arrays but for writes. -/

namespace Sys2Proof.Machine

/-! ## Array writes -/

section
variable (sp : Space) (idx : Nat) (bs : List Byte) (s : State)

theorem writeBytes_cfg : (writeBytes sp idx bs s).cfg = s.cfg := by cases sp <;> rfl

theorem writeBytes_sched : (writeBytes sp idx bs s).sched = s.sched := by cases sp <;> rfl

theorem writeBytes_host : (writeBytes sp idx bs s).host = s.host := by cases sp <;> rfl

end

/-- A write inside its array keeps the invariant (R21, R22). -/
theorem inv_writeBytes {sp : Space} {idx : Nat} {bs : List Byte} {s : State} (h : s.Inv)
    (hi : idx + bs.length ≤ spaceSize s.cfg sp) : (writeBytes sp idx bs s).Inv := by
  obtain ⟨ha, ⟨hrom, hram, hromB, hramB⟩, hrest⟩ := h
  cases sp with
  | rom => exact ⟨ha, ⟨storeAll_wf idx bs hrom, hram, storeAll_below bs hromB hi, hramB⟩, hrest⟩
  | ram => exact ⟨ha, ⟨hrom, storeAll_wf idx bs hram, hromB, storeAll_below bs hramB hi⟩, hrest⟩

theorem WritesArray.inv {i : Instr} {s t : State} (h : WritesArray i s t)
    (hi : i.wf s.cfg = true) (hs : s.Inv) : t.Inv := by
  obtain ⟨sp, idx, bs, r, hw, rfl⟩ := h
  have ha : s.cfg.admitted = true := hs.1
  exact inv_writeBytes hs (arrayWrite_fits ha hi hw)

/-- An operation that changes a byte of an array writes that array, or is a bulk write. -/
theorem exec_changes_byte {i : Instr} {s t : State} {sp : Space} {idx : Nat}
    (h : exec i s = .next t) (hb : byteAt sp t idx ≠ byteAt sp s idx) :
    ∃ idx' bs, arrayWrite s.cfg i = some (sp, idx', bs) := by
  rcases exec_cases h with ⟨sp', idx', bs, r, hw, rfl⟩ | hu
  · by_cases hsp : sp = sp'
    · subst hsp
      exact ⟨idx', bs, hw⟩
    · exact absurd (byteAt_writeBytes_other idx' bs s idx hsp) hb
  · have hf := hu.frame
    refine absurd ?_ hb
    cases sp <;> simp [byteAt, array, hf.rom, hf.ram]

/-! ## The obligations -/

/-- Settles O12: an array write stays inside its array because decoded instructions are well formed,
and every update keeps each clause. At RESET and INIT the clause on notifications rests on log entry 4:
the level that reset drops is notified too. -/
theorem stepKeepsInvariant : Obligations.StepKeepsInvariant := by
  intro s t hs h
  rcases step_writes_or_updates h with ⟨r, rest, i, hd, hw⟩ | hu
  · exact hw.inv (decode_wf hd) hs
  · exact hu.inv hs

/-- Settles O13: an array write touches none of the three, and updates only move time on to where no
entry is overdue and only append to what the host was given. -/
theorem stepMonotone : Obligations.StepMonotone := by
  intro s t h
  rcases step_writes_or_updates h with ⟨r, rest, i, -, sp, idx, bs, r', -, rfl⟩ | hu
  · refine ⟨writeBytes_cfg sp idx bs _, fun _ => ?_, ?_⟩
    · exact (congrArg Sched.now (writeBytes_sched sp idx bs (s.setInbox rest))).ge
    · rw [respond_eq, writeBytes_host]
      exact List.prefix_rfl
  · exact ⟨hu.frame.cfg, fun hq => (hu.time hq).2, hu.frame.emitted⟩

/-- Settles O14: a changed byte lies in the array the instruction writes, and only the array's own
write and BULK_WRITE write it. -/
theorem memoryChangesOnlyByWrites : Obligations.MemoryChangesOnlyByWrites := by
  intro i s t h
  constructor
  · rintro ⟨idx, hb⟩
    obtain ⟨_, _, hw⟩ := exec_changes_byte (sp := .rom) h hb
    rcases arrayWrite_some hw with ⟨_, _, _, -, hsp, -⟩ | ⟨w, a, v, rfl, -⟩ | ⟨a, rfl, -⟩
    · cases hsp
    · exact .inl ⟨w, a, v, rfl⟩
    · exact .inr ⟨a, _, rfl⟩
  · rintro ⟨idx, hb⟩
    obtain ⟨_, _, hw⟩ := exec_changes_byte (sp := .ram) h hb
    rcases arrayWrite_some hw with ⟨w, a, v, rfl, -⟩ | ⟨_, _, _, -, hsp, -⟩ | ⟨a, rfl, -⟩
    · exact .inl ⟨w, a, v, rfl⟩
    · cases hsp
    · exact .inr ⟨a, _, rfl⟩

/-- Settles O53: the three mode-bound events look at the mode first. -/
theorem eventsOfTheOtherModeRefused : Obligations.EventsOfTheOtherModeRefused := by
  intro s
  refine ⟨fun hb => ⟨?_, ?_⟩, fun hs => ?_⟩
  · simp only [exec, execEvUartTx, hb]
  · simp only [exec, execEvUartRxPoll, hb]
  · simp only [exec, execEvUartFlush, hs]

end Sys2Proof.Machine
end

section
/-! PROOFS. Windows, and data reads and writes of the two arrays (20_memory.md R39 to R58; 41_bus.md
R77 to R80). -/

namespace Sys2Proof.Machine

/-! ## Addresses -/

/-- Settles O5: the decoder reads a request's descriptor, value and operands, never its ASI. -/
theorem asiIgnored : Obligations.AsiIgnored := fun _ _ _ => rfl

/-- Settles O6: the tests of `windowOf` are made one after another, and because the windows are
disjoint the address passes no test but the one that answers. -/
theorem windowsOfAddresses : Obligations.WindowsOfAddresses := by
  intro c a hc
  have hdisjoint := admitted_windows hc
  unfold windowOf
  split_ifs with hram hapb hrom
  all_goals
    simp only [true_iff, false_iff]
    omega

/-- Past an address of an aligned access the index of a byte grows with the address, without wrapping
at 2^32 (20_memory.md R46). -/
theorem indexOf_add {c : Config} {sp : Space} {w : Width} {a : Addr} {off : Nat}
    (ha : aligned w a = true) (hbase : spaceBase c sp ≤ a.toNat) (hoff : off < w.bytes) :
    indexOf c sp (a + BitVec.ofNat 32 off) = indexOf c sp a + off := by
  have hlt := a.isLt
  have hnowrap : a.toNat + off < 2 ^ 32 := by
    simp only [aligned, beq_iff_eq] at ha
    cases w <;> simp only [Width.bytes] at ha hoff <;> omega
  simp only [indexOf, BitVec.toNat_add, BitVec.toNat_ofNat]
  omega

/-! ## Frames -/

theorem unchangedBut_refl (ps : List Part) (s : State) : UnchangedBut ps s s := by
  intro p _
  cases p with
  | romBytes | ramBytes => exact fun _ => rfl
  | queue | hostIn => exact ⟨rfl, rfl⟩
  | _ => rfl

/-- An answer adds the response, and nothing else, to what an operation changes. -/
theorem unchangedBut_respond {ps : List Part} {s t : State} (r : Response)
    (h : UnchangedBut ps s t) : UnchangedBut (.response :: ps) s (respond r t) := by
  intro p hp
  rw [List.mem_cons, not_or] at hp
  have hsame := h p hp.2
  cases p with
  | response => exact absurd rfl hp.1
  | _ => exact hsame

/-- Writing bytes into an array changes that array's bytes only (R47). -/
theorem unchangedBut_writeBytes (sp : Space) (i : Nat) (bs : List Byte) (s : State) :
    UnchangedBut [bytesPart sp] s (writeBytes sp i bs s) := by
  intro p hp
  rw [List.mem_singleton] at hp
  cases p with
  | romBytes | ramBytes =>
    exact fun j => byteAt_writeBytes_other i bs s j (by rintro rfl; exact hp rfl)
  | queue | hostIn => cases sp <;> exact ⟨rfl, rfl⟩
  | _ => cases sp <;> rfl

/-! ## Big-endian values -/

theorem getD_beBytes {n k : Nat} (v : Double) (h : k < n) :
    (beBytes n v).getD k 0 = (v >>> (8 * (n - 1 - k))).setWidth 8 := by
  simp [beBytes, h]

/-- The last byte of a value is its lowest, the others are those of the value without it. -/
theorem beBytes_succ (n : Nat) (v : Double) :
    beBytes (n + 1) v = beBytes n (v >>> 8) ++ [v.setWidth 8] := by
  simp only [beBytes, List.range_succ, List.map_append, List.map_cons, List.map_nil]
  congr 1
  · refine List.map_congr_left fun k hk => ?_
    have hk : k < n := List.mem_range.1 hk
    rw [← BitVec.shiftRight_add]
    congr 2
    omega
  · simp

/-- The value of the `n` bytes of a value is what the value holds in them (R46, R47). -/
theorem toNat_beValue_beBytes (n : Nat) (v : Double) :
    (beValue (beBytes n v)).toNat = v.toNat % 2 ^ (8 * n) := by
  induction n generalizing v with
  | zero => simp [beBytes, beValue, Nat.mod_one]
  | succ n ih =>
    have hlast : beValue (beBytes (n + 1) v) =
        (beValue (beBytes n (v >>> 8)) <<< 8) ||| (v.setWidth 8).setWidth 64 := by
      simp only [beValue, beBytes_succ, List.foldl_append, List.foldl_cons, List.foldl_nil]
    have hpow : 2 ^ (8 * (n + 1)) = 256 * 2 ^ (8 * n) := by ring
    have hle := Nat.mod_le v.toNat (256 * 2 ^ (8 * n))
    have hlt := v.isLt
    rw [hlast, toNat_shiftIn, ih, hpow]
    rw [Nat.mod_mul] at hle ⊢
    simp only [BitVec.toNat_ushiftRight, Nat.shiftRight_eq_div_pow, BitVec.toNat_setWidth,
      Nat.reducePow] at hle ⊢
    omega

theorem beValue_beBytes (w : Width) (v : Double) : beValue (beBytes w.bytes v) = truncateTo w v := by
  apply BitVec.eq_of_toNat_eq
  have hlt := (beValue (beBytes w.bytes v)).isLt
  rw [toNat_beValue_beBytes] at hlt ⊢
  rw [truncateTo, BitVec.toNat_ofNat, Nat.mod_eq_of_lt hlt]

/-- A width's worth of a word, from bit `lo` on. -/
theorem truncateTo_shiftRight (w : Width) (v : Word) (lo : Nat) :
    truncateTo w ((v.setWidth 64 : Double) >>> lo) =
      (v.extractLsb' lo (8 * w.bytes)).setWidth 64 := by
  apply BitVec.eq_of_toNat_eq
  have hv : v.toNat % 2 ^ 64 = v.toNat := Nat.mod_eq_of_lt (by have := v.isLt; omega)
  simp only [truncateTo, BitVec.toNat_ofNat, BitVec.toNat_ushiftRight, BitVec.toNat_setWidth, hv,
    BitVec.extractLsb'_toNat]

/-! ## One array -/

theorem bytesAt_congr {sp : Space} {t u : State} {i n : Nat}
    (h : ∀ k < n, byteAt sp u (i + k) = byteAt sp t (i + k)) : bytesAt sp u i n = bytesAt sp t i n :=
  List.map_congr_left fun k hk => h k (List.mem_range.1 hk)

/-- A data read answers the sum of its bytes' weights (R46). -/
theorem toNat_memRead (sp : Space) (s : State) (a : Addr) (w : Width) :
    (memRead sp s a w).toNat = ∑ k ∈ Finset.range w.bytes,
      (byteAt sp s (indexOf s.cfg sp a + k)).toNat * 2 ^ (8 * (w.bytes - 1 - k)) :=
  toNat_beValue w _

theorem memWrite_cfg (sp : Space) (a : Addr) (w : Width) (v : Double) (s : State) :
    (memWrite sp a w v s).cfg = s.cfg := writeBytes_cfg _ _ _ _

/-- Byte `k` of a written value stands `k` past the address (R47). -/
theorem byteAt_memWrite {sp : Space} {a : Addr} {w : Width} {v : Double} {s : State} {k : Nat}
    (hk : k < w.bytes) :
    byteAt sp (memWrite sp a w v s) (indexOf s.cfg sp a + k) =
      (v >>> (8 * (w.bytes - 1 - k))).setWidth 8 := by
  rw [memWrite, byteAt_writeBytes, if_pos (by rw [length_beBytes]; omega), Nat.add_sub_cancel_left,
    getD_beBytes v hk]

/-- A data write changes no byte outside the range it writes (R47). -/
theorem byteAt_memWrite_outside {sp : Space} {a : Addr} {w : Width} {v : Double} {s : State} {j : Nat}
    (hj : j < indexOf s.cfg sp a ∨ indexOf s.cfg sp a + w.bytes ≤ j) :
    byteAt sp (memWrite sp a w v s) j = byteAt sp s j := by
  rw [memWrite, byteAt_writeBytes, if_neg (by rw [length_beBytes]; omega)]

/-- The bytes of a part of what was written are those of the value without the bits below the part. -/
theorem bytesAt_memWrite {sp : Space} {a : Addr} {w : Width} {v : Double} {s : State} {off n : Nat}
    (h : off + n ≤ w.bytes) :
    bytesAt sp (memWrite sp a w v s) (indexOf s.cfg sp a + off) n =
      beBytes n (v >>> (8 * (w.bytes - off - n))) := by
  refine List.map_congr_left fun k hk => ?_
  have hk : k < n := List.mem_range.1 hk
  rw [Nat.add_assoc, byteAt_memWrite (by omega), ← BitVec.shiftRight_add]
  congr 2
  omega

/-- A value is what a read of its bytes answers, as long as they stand (R55, R58, R183). -/
theorem memRead_of_written {sp : Space} {a : Addr} {w : Width} {v : Double} {s u : State}
    (hv : fitsWidth w v = true) (hcfg : u.cfg = s.cfg)
    (hb : ∀ k < w.bytes, byteAt sp u (indexOf s.cfg sp a + k) =
      byteAt sp (memWrite sp a w v s) (indexOf s.cfg sp a + k)) :
    memRead sp u a w = v := by
  have hbytes := bytesAt_memWrite (sp := sp) (a := a) (v := v) (s := s) (off := 0)
    (Nat.zero_add w.bytes).le
  simp only [Nat.add_zero, Nat.sub_zero, Nat.sub_self, Nat.mul_zero, BitVec.ushiftRight_zero]
    at hbytes
  rw [memRead, hcfg, bytesAt_congr hb, hbytes, beValue_beBytes, truncateTo_of_fits hv]

/-- A narrower read inside a written word answers its big-endian part (R48). -/
theorem memRead_part_of_word {sp : Space} {a b : Addr} {v : Word} {s : State} {w : Width} (off : Nat)
    (ha : aligned .word a = true) (hbase : spaceBase s.cfg sp ≤ a.toNat)
    (hb : b = a + BitVec.ofNat 32 off) (h : off + w.bytes ≤ Width.word.bytes) :
    memRead sp (memWrite sp a .word (v.setWidth 64) s) b w =
      (v.extractLsb' (8 * (4 - off - w.bytes)) (8 * w.bytes)).setWidth 64 := by
  have hpos : 0 < w.bytes := by cases w <;> decide
  rw [memRead, memWrite_cfg, hb, indexOf_add ha hbase (by omega), bytesAt_memWrite h, beValue_beBytes,
    truncateTo_shiftRight]
  rfl

/-! ## The operations -/

theorem exec_readRam (w : Width) (a : Addr) (s : State) :
    exec (.readRam w a) s = readArray .ram w a s.cfg.wsRamR s := rfl

theorem exec_readRom (w : Width) (a : Addr) (s : State) :
    exec (.readRom w a) s = readArray .rom w a s.cfg.wsRomR s := rfl

theorem exec_ifetchRam (a : Addr) (s : State) : exec (.ifetchRam a) s = fetchArray .ram a s := rfl

theorem exec_ifetchRom (a : Addr) (s : State) : exec (.ifetchRom a) s = fetchArray .rom a s := rfl

theorem exec_writeRam (w : Width) (a : Addr) (v : Double) (s : State) :
    exec (.writeRam w a v) s = writeArray .ram w a v s.cfg.wsRamW s := rfl

/-- R80 where ROM is writable. -/
theorem exec_writeRom_writable (w : Width) (a : Addr) (v : Double) {s : State}
    (h : s.cfg.romWritable = true) :
    exec (.writeRom w a v) s = writeArray .rom w a v s.cfg.wsRomW s := if_pos h

/-- R80 where ROM is not writable. -/
theorem exec_writeRom_readOnly (w : Width) (a : Addr) (v : Double) {s : State}
    (h : s.cfg.romWritable = false) : exec (.writeRom w a v) s = busException .readOnly s :=
  if_neg (by simp [h])

/-- A data read of either array (R46, R77, R78). -/
theorem readArray_spec (sp : Space) (w : Width) (a : Addr) (ws : Nat) (s : State) :
    ∃ t v, readArray sp w a ws s = .next t ∧ t.response = .value w v ws ∧
      v.toNat = ∑ k ∈ Finset.range w.bytes,
        (byteAt sp s (indexOf s.cfg sp a + k)).toNat * 2 ^ (8 * (w.bytes - 1 - k)) ∧
      UnchangedBut [.response] s t :=
  ⟨_, _, rfl, rfl, toNat_memRead sp s a w, unchangedBut_respond _ (unchangedBut_refl [] s)⟩

/-- A data write of either array (R47, R79, R80). -/
theorem writeArray_spec (sp : Space) (w : Width) (a : Addr) (v : Double) (ws : Nat) (s : State) :
    ∃ t, writeArray sp w a v ws s = .next t ∧ t.response = .written ws ∧
      (∀ k < w.bytes, ∀ b < 8, (byteAt sp t (indexOf s.cfg sp a + k)).getLsbD b =
        v.getLsbD (8 * (w.bytes - 1 - k) + b)) ∧
      (∀ j, j < indexOf s.cfg sp a ∨ indexOf s.cfg sp a + w.bytes ≤ j →
        byteAt sp t j = byteAt sp s j) ∧
      UnchangedBut [.response, bytesPart sp] s t := by
  refine ⟨_, rfl, rfl, fun k hk b hb => ?_, fun j hj => byteAt_memWrite_outside hj,
    unchangedBut_respond _ (unchangedBut_writeBytes sp _ _ s)⟩
  have hbyte : byteAt sp (respond (.written ws) (memWrite sp a w v s)) (indexOf s.cfg sp a + k) =
      (v >>> (8 * (w.bytes - 1 - k))).setWidth 8 := byteAt_memWrite hk
  simp [hbyte, hb]

/-- After a data write, reads and fetches of the same bytes answer what was written (R55, R58, R183). -/
theorem writeArray_readBack {sp : Space} {w : Width} {a : Addr} {v : Double} {ws : Nat}
    {s t u : State} (ws' : Nat) (hv : fitsWidth w v = true) (hcfg : u.cfg = t.cfg)
    (ht : writeArray sp w a v ws s = .next t)
    (hb : ∀ k < w.bytes, byteAt sp u (indexOf s.cfg sp a + k) =
      byteAt sp t (indexOf s.cfg sp a + k)) :
    u.cfg = s.cfg ∧
    (∃ r, readArray sp w a ws' u = .next r ∧ r.response = .value w v ws') ∧
    (w = .word → ∃ r, fetchArray sp a u = .next r ∧ r.response = .fetched (v.setWidth 32)) := by
  cases ht
  have hc : u.cfg = s.cfg := hcfg.trans (memWrite_cfg sp a w v s)
  have hread : memRead sp u a w = v := memRead_of_written hv hc hb
  refine ⟨hc, ⟨_, rfl, by rw [← hread]; rfl⟩, ?_⟩
  rintro rfl
  exact ⟨_, rfl, by rw [← hread]; rfl⟩

/-! ## The obligations -/

/-- Settles O17: both are a data read of their array. -/
theorem arrayReadsAreBigEndian : Obligations.ArrayReadsAreBigEndian := by
  intro w a s
  rw [exec_readRam, exec_readRom]
  exact ⟨readArray_spec .ram w a _ s, readArray_spec .rom w a _ s⟩

/-- Settles O19: both are a data write of their array, but for WRITE_ROM where ROM is not writable. -/
theorem arrayWritesAreBigEndian : Obligations.ArrayWritesAreBigEndian := by
  intro w a v s
  refine ⟨?_, fun hrom => ?_, fun hrom => ?_⟩
  · rw [exec_writeRam]
    exact writeArray_spec .ram w a v _ s
  · rw [exec_writeRom_writable w a v hrom]
    exact writeArray_spec .rom w a v _ s
  · rw [exec_writeRom_readOnly w a v hrom]
    exact ⟨_, rfl, rfl, unchangedBut_respond _ (unchangedBut_refl [] s)⟩

/-- Settles O20: a read looks at the written bytes only, and their value is the value written. -/
theorem writtenValueReadBack : Obligations.WrittenValueReadBack := by
  intro w a v s t u hv hcfg
  refine ⟨fun ht hb => ?_, fun hrom ht hb => ?_⟩
  · obtain ⟨hc, hread⟩ := writeArray_readBack s.cfg.wsRamR hv hcfg ht hb
    rwa [exec_readRam, exec_ifetchRam, hc]
  · rw [exec_writeRom_writable w a v hrom] at ht
    obtain ⟨hc, hread⟩ := writeArray_readBack s.cfg.wsRomR hv hcfg ht hb
    rwa [exec_readRom, exec_ifetchRom, hc]

/-- Settles O21: each of the six reads is of a part of the written word. -/
theorem mixedWidthReads : Obligations.MixedWidthReads := by
  intro sp a v s t ha h
  obtain ⟨ws, hbase, ht⟩ : ∃ ws, spaceBase s.cfg sp ≤ a.toNat ∧
      writeArray sp .word a (v.setWidth 64) ws s = .next t := by
    rcases h with ⟨rfl, hbase, ht⟩ | ⟨rfl, hrom, ht⟩
    · exact ⟨_, hbase, ht⟩
    · exact ⟨_, Nat.zero_le _, exec_writeRom_writable .word a _ hrom ▸ ht⟩
  cases ht
  have part {b : Addr} {w : Width} (off : Nat) (hb : b = a + BitVec.ofNat 32 off)
      (hw : off + w.bytes ≤ Width.word.bytes) := memRead_part_of_word (v := v) off ha hbase hb hw
  have h0 : a = a + BitVec.ofNat 32 0 := (BitVec.add_zero a).symm
  exact ⟨part 0 h0 (by decide), part 1 rfl (by decide), part 2 rfl (by decide),
    part 3 rfl (by decide), part 0 h0 (by decide), part 2 rfl (by decide)⟩

end Sys2Proof.Machine
end

section
/-! PROOFS. The decoder undoes the encoder (30_encoding.md R60 to R64, R73), and the requests it
rejects are the reserved ones (R72) and the misaligned ones (20_memory.md R50). -/

namespace Sys2Proof

/-! ## Requests for an access -/

theorem decode_readRequest (c : Config) {w : Width} {a : Addr} (ha : aligned w a = true) :
    decode c (readRequest w a) = .ok (decodeRead c w a) := by
  rw [decode, Laws.Descriptor.reserved_read]
  simp [readRequest, ha]

theorem decode_writeRequest (c : Config) {w : Width} {a : Addr} (v : Double)
    (ha : aligned w a = true) :
    decode c (writeRequest w a v) = .ok (decodeWrite c w a v) := by
  rw [decode, Laws.Descriptor.reserved_write]
  simp [writeRequest, ha]

/-- The width code of a fetch stands for a word (R60). -/
theorem decode_fetchRequest (c : Config) {a : Addr} (ha : aligned .word a = true) :
    decode c { desc := accessDesc 2 2 a } = .ok (decodeFetch c a) := by
  have hw : aligned (Width.ofCode 2#2) a = true := ha
  rw [decode, Laws.Descriptor.reserved_fetch]
  simp [hw]

/-! ## Requests for a register -/

theorem decodeRead_regAddr {c : Config} (h : c.admitted = true) (r : Reg) :
    decodeRead c .word (regAddr c r) = readOf r := by
  have hoff : (regAddr c r).toNat - c.apbBase = c.offset r := by
    rw [toNat_regAddr h, Nat.add_sub_cancel_left]
  simp only [decodeRead, windowOf_regAddr h, hoff, registerAt_offset h]

theorem decodeWrite_regAddr {c : Config} (h : c.admitted = true) (r : Reg) (v : Double) :
    decodeWrite c .word (regAddr c r) v = writeOf (v.setWidth 32) r := by
  have hoff : (regAddr c r).toNat - c.apbBase = c.offset r := by
    rw [toNat_regAddr h, Nat.add_sub_cancel_left]
  simp only [decodeWrite, windowOf_regAddr h, hoff, registerAt_offset h]

theorem decode_regRead {c : Config} (h : c.admitted = true) (r : Reg) :
    decode c (regRead c r) = .ok (readOf r) := by
  rw [regRead, decode_readRequest c (aligned_regAddr h r), decodeRead_regAddr h]

theorem decode_regWrite {c : Config} (h : c.admitted = true) (r : Reg) (v : Word) :
    decode c (regWrite c r v) = .ok (writeOf v r) := by
  rw [regWrite, decode_writeRequest c _ (aligned_regAddr h r), decodeWrite_regAddr h,
    BitVec.setWidth_setWidth_of_le v (by decide), BitVec.setWidth_eq]

/-! ## Requests for a call or event -/

/-- A call's descriptor is reserved only where its `op` selects no operation (R72). -/
theorem decode_callDesc (c : Config) {r : Request} {op : BitVec 24} {arg : Byte} {i : Instr}
    (hr : r.desc = callDesc op arg) (hi : decodeCall r = some i) : decode c r = .ok i := by
  simp [decode, reservedRequest, hr, hi]

/-! ## Decoding an encoded instruction -/

theorem aligned_byte (a : Addr) : aligned .byte a = true := by
  simp [aligned, Width.bytes, Nat.mod_one]

/-- The instruction by its encoding: an access whose window, width and offset select its own row; a
register's word access; or a call. -/
theorem decode_encode {c : Config} {i : Instr} (h : c.admitted = true) (hi : i.wf c = true) :
    decode c (encode c i) = .ok i := by
  cases i with
  | readRam w a | readRom w a | readUnmapped w a | readApbH a | readApbD a =>
    simp only [Instr.wf, Bool.and_eq_true, beq_iff_eq] at hi
    obtain ⟨ha, hw⟩ := hi
    rw [encode, decode_readRequest c ha]
    simp only [decodeRead, hw]
  | readApbB a =>
    simp only [Instr.wf, beq_iff_eq] at hi
    rw [encode, decode_readRequest c (aligned_byte a)]
    simp only [decodeRead, hi]
  | readApbUnassigned a =>
    simp only [Instr.wf, Bool.and_eq_true, beq_iff_eq] at hi
    obtain ⟨⟨ha, hw⟩, hr⟩ := hi
    rw [encode, decode_readRequest c ha]
    simp only [decodeRead, hw, hr]
  | writeRam w a v | writeRom w a v | writeUnmapped w a v =>
    simp only [Instr.wf, Bool.and_eq_true, beq_iff_eq] at hi
    obtain ⟨⟨ha, hw⟩, hv⟩ := hi
    rw [encode, decode_writeRequest c v ha]
    simp only [decodeWrite, hw, truncateTo_of_fits hv]
  | writeApbB a v =>
    simp only [Instr.wf, beq_iff_eq] at hi
    rw [encode, decode_writeRequest c _ (aligned_byte a)]
    simp [decodeWrite, hi]
  | writeApbH a v | writeApbD a v =>
    simp only [Instr.wf, Bool.and_eq_true, beq_iff_eq] at hi
    obtain ⟨ha, hw⟩ := hi
    rw [encode, decode_writeRequest c _ ha]
    simp [decodeWrite, hw]
  | writeApbUnassigned a v =>
    simp only [Instr.wf, Bool.and_eq_true, beq_iff_eq] at hi
    obtain ⟨⟨ha, hw⟩, hr⟩ := hi
    rw [encode, decode_writeRequest c _ ha]
    simp [decodeWrite, hw, hr]
  | ifetchRam a | ifetchRom a =>
    simp only [Instr.wf, Bool.and_eq_true, beq_iff_eq] at hi
    obtain ⟨ha, hw⟩ := hi
    rw [encode, decode_fetchRequest c ha]
    simp only [decodeFetch, hw]
  | ifetchOther a =>
    simp only [Instr.wf, Bool.and_eq_true, Bool.or_eq_true, beq_iff_eq] at hi
    obtain ⟨ha, hw | hw⟩ := hi <;> rw [encode, decode_fetchRequest c ha] <;>
      simp only [decodeFetch, hw]
  | readIrqMask | readIrqPending | readIrqForce | readIrqClear | readPreValue | readPreReload
  | readT1Counter | readT1Reload | readT1Control | readT2Counter | readT2Reload | readT2Control
  | readUartData | readUartStatus | readCcr => exact decode_regRead h _
  | writeIrqMask v | writeIrqPending v | writeIrqForce v | writeIrqClear v | writePreValue v
  | writePreReload v | writeT1Counter v | writeT1Reload v | writeT1Control v | writeT2Counter v
  | writeT2Reload v | writeT2Control v | writeUartData v | writeUartStatus v | writeCcr v =>
    exact decode_regWrite h _ v
  | irqRaise l | irqAck l | irqPoll | evPrescaler | evUartTx | evUartRxPoll | evUartFlush | init
  | reset | bootInit | halt | shutdown | bulkRead a len | bulkWrite a bs | waitForInterrupt
  | advance t => exact decode_callDesc c rfl (by simp [encode, callRequest, decodeCall])

/-! ## Rejected requests -/

theorem decode_of_reserved (c : Config) {r : Request} (hr : reservedRequest r = true) :
    decode c r = .rejected .reserved := if_pos hr

/-- A call that is not reserved is answered with its operation. -/
theorem decode_of_call (c : Config) {r : Request} (hr : reservedRequest r = false)
    (hk : descKind r.desc = 3) : ∃ i, decode c r = .ok i := by
  cases hc : decodeCall r with
  | none => simp [reservedRequest, hk, hc] at hr
  | some i => exact ⟨i, by simp [decode, hr, hk, hc]⟩

theorem decode_of_misaligned (c : Config) {r : Request} (hr : reservedRequest r = false)
    (hk : descKind r.desc ≠ 3)
    (ha : aligned (Width.ofCode (descWc r.desc)) (descAddr r.desc) = false) :
    decode c r = .rejected .misaligned := by
  simp only [decode, hr, hk, ha, Bool.false_eq_true, if_false]

/-- An aligned access that is not reserved is answered with its operation. -/
theorem decode_of_aligned (c : Config) {r : Request} (hr : reservedRequest r = false)
    (hk : descKind r.desc ≠ 3)
    (ha : aligned (Width.ofCode (descWc r.desc)) (descAddr r.desc) = true) :
    ∃ i, decode c r = .ok i := by
  simp only [decode, hr, hk, ha, Bool.false_eq_true, if_false, if_true]
  split
  · exact ⟨_, rfl⟩
  · split <;> exact ⟨_, rfl⟩

/-- What a request is answered, in the decoder's order: reserved, an operation, or misaligned. -/
theorem decode_outcomes (c : Config) (r : Request) :
    (reservedRequest r = true ∧ decode c r = .rejected .reserved) ∨
    (reservedRequest r = false ∧
      (descKind r.desc = 3 ∨ aligned (Width.ofCode (descWc r.desc)) (descAddr r.desc) = true) ∧
      ∃ i, decode c r = .ok i) ∨
    (reservedRequest r = false ∧ descKind r.desc ≠ 3 ∧
      aligned (Width.ofCode (descWc r.desc)) (descAddr r.desc) = false ∧
      decode c r = .rejected .misaligned) := by
  cases hr : reservedRequest r with
  | true => exact .inl ⟨rfl, decode_of_reserved c hr⟩
  | false =>
    by_cases hk : descKind r.desc = 3
    · exact .inr (.inl ⟨rfl, .inl hk, decode_of_call c hr hk⟩)
    · cases ha : aligned (Width.ofCode (descWc r.desc)) (descAddr r.desc) with
      | true => exact .inr (.inl ⟨rfl, .inr rfl, decode_of_aligned c hr hk ha⟩)
      | false => exact .inr (.inr ⟨rfl, hk, rfl, decode_of_misaligned c hr hk ha⟩)

theorem decode_eq_reserved_iff (c : Config) (r : Request) :
    decode c r = .rejected .reserved ↔ reservedRequest r = true := by
  rcases decode_outcomes c r with ⟨hr, hd⟩ | ⟨hr, -, i, hd⟩ | ⟨hr, -, -, hd⟩ <;> simp [hr, hd]

theorem decode_eq_misaligned_iff (c : Config) (r : Request) :
    decode c r = .rejected .misaligned ↔ reservedRequest r = false ∧ descKind r.desc ≠ 3 ∧
      aligned (Width.ofCode (descWc r.desc)) (descAddr r.desc) = false := by
  rcases decode_outcomes c r with ⟨hr, hd⟩ | ⟨hr, hk | ha, i, hd⟩ | ⟨hr, hk, ha, hd⟩
  · simp [hr, hd]
  · simp [hk, hd]
  · simp [ha, hd]
  · exact iff_of_true hd ⟨hr, hk, ha⟩

/-- The reserved descriptors by their fields (R72, R62). -/
theorem reservedRequest_iff (r : Request) :
    reservedRequest r = true ↔
      (descKind r.desc = 2 ∧ descWc r.desc ≠ 2) ∨ (descKind r.desc = 3 ∧ descWc r.desc ≠ 0) ∨
        (descKind r.desc = 3 ∧ (decodeCall r).isNone = true) := by
  simp only [reservedRequest, Bool.or_eq_true, Bool.and_eq_true, beq_iff_eq, bne_iff_ne, and_or_left]

/-- Of the requests that are no calls, the reserved ones are the fetches that are not of a word. -/
theorem reservedRequest_eq_false_iff {r : Request} (hk : descKind r.desc ≠ 3) :
    reservedRequest r = false ↔ ¬(descKind r.desc = 2 ∧ descWc r.desc ≠ 2) := by
  rw [← Bool.not_eq_true, reservedRequest_iff]
  simp only [hk, false_and, or_false]

/-- An access is aligned at the multiples of `1 << wc` (R50, R61). -/
theorem aligned_ofCode_eq_false_iff (wc : BitVec 2) (a : Addr) :
    aligned (Width.ofCode wc) a = false ↔ a.toNat % 2 ^ wc.toNat ≠ 0 := by
  rw [aligned, bytes_ofCode, beq_eq_false_iff_ne]

/-! ## The obligations -/

/-- Settles O1: each word is decoded by evaluation. -/
theorem tableWordsDecode : Obligations.TableWordsDecode := by
  unfold Obligations.TableWordsDecode
  decide

/-- Settles O2: what an encoded instruction asks for selects its own row. -/
theorem decodeEncodeAgree : Obligations.DecodeEncodeAgree :=
  fun _ _ => decode_encode

/-- Settles O3: the decoder looks at alignment and window before it answers, and cuts the value. -/
theorem decodedMeetsItsRow : Obligations.DecodedMeetsItsRow :=
  fun _ _ _ => decode_wf

/-- Settles O4: the reserved requests are found first, and alignment is looked at for accesses only. -/
theorem requestsRefused : Obligations.RequestsRefused := by
  intro c r
  constructor
  · rw [decode_eq_reserved_iff, reservedRequest_iff, decodeCall_isNone]
  · rw [decode_eq_misaligned_iff, aligned_ofCode_eq_false_iff, and_left_comm]
    exact and_congr_right fun hk => and_congr_left' (reservedRequest_eq_false_iff hk)

end Sys2Proof
end

section
/-! PROOFS. The bus operations beside the data accesses of the arrays: accesses that end in a
BusException, unassigned offsets, CACHE_CTRL, instruction fetch and bulk transfers (41_bus.md R81 to
R84, R87 to R92). -/

namespace Sys2Proof.Machine

/-! ## Frames -/

/-- An operation that only answers changes nothing else. -/
theorem unchangedBut_answer (r : Response) (s : State) :
    UnchangedBut [.response] s (respond r s) := unchangedBut_respond r (unchangedBut_refl [] s)

theorem unchangedBut_drew (n : Nat) (s : State) : UnchangedBut [.draws] s (drew n s) := by
  intro p hp
  cases p with
  | draws => exact absurd (List.mem_singleton_self _) hp
  | romBytes | ramBytes => exact fun _ => rfl
  | queue | hostIn => exact ⟨rfl, rfl⟩
  | _ => rfl

theorem unchangedBut_setCcr (v : Word) (s : State) : UnchangedBut [.ccr] s (s.setCcr v) := by
  intro p hp
  cases p with
  | ccr => exact absurd (List.mem_singleton_self _) hp
  | romBytes | ramBytes => exact fun _ => rfl
  | queue | hostIn => exact ⟨rfl, rfl⟩
  | _ => rfl

/-! ## Accesses that end in a BusException -/

theorem busException_spec (cause : Cause) (s : State) :
    ∃ t, busException cause s = .next t ∧ t.response = .exception cause s.cfg.memExWs ∧
      UnchangedBut [.response] s t :=
  ⟨_, rfl, rfl, unchangedBut_answer _ s⟩

/-- R81, R82. -/
theorem exec_of_unmapped {w : Width} {a : Addr} {v : Double} {i : Instr} (s : State)
    (h : i ∈ [Instr.readUnmapped w a, .writeUnmapped w a v]) :
    exec i s = busException .unmapped s := by
  simp only [List.mem_cons, List.not_mem_nil, or_false] at h
  rcases h with rfl | rfl <;> rfl

/-- R83, R84. -/
theorem exec_of_badWidth {a : Addr} {v8 : Byte} {v16 : Half} {v : Double} {i : Instr} (s : State)
    (h : i ∈ [Instr.readApbB a, .readApbH a, .readApbD a, .writeApbB a v8, .writeApbH a v16,
      .writeApbD a v]) :
    exec i s = busException .badWidth s := by
  simp only [List.mem_cons, List.not_mem_nil, or_false] at h
  rcases h with rfl | rfl | rfl | rfl | rfl | rfl <;> rfl

/-! ## Words of the peripheral window -/

theorem exec_readCcr (s : State) : exec .readCcr s = returnWord s.ccr s := rfl

theorem exec_writeCcr (v : Word) (s : State) :
    exec (.writeCcr v) s = returnWritten (s.setCcr v) := rfl

theorem exec_readApbUnassigned (a : Addr) (s : State) :
    exec (.readApbUnassigned a) s = returnWord (free s 32 0) (drew 1 s) := rfl

/-! ## Instruction fetch -/

theorem exec_ifetchOther (a : Addr) (s : State) :
    exec (.ifetchOther a) s = fetchException .unmapped s := rfl

/-- The value of a word read fits a word. -/
theorem toNat_memRead_word_lt (sp : Space) (s : State) (a : Addr) :
    (memRead sp s a .word).toNat < 2 ^ 32 := by
  have hbyte (k : Nat) : (byteAt sp s (indexOf s.cfg sp a + k)).toNat < 2 ^ 8 := BitVec.isLt _
  have h0 := hbyte 0
  have h1 := hbyte 1
  have h2 := hbyte 2
  have h3 := hbyte 3
  rw [toNat_memRead]
  simp only [Width.bytes, Finset.sum_range_succ, Finset.sum_range_zero]
  omega

/-- A fetch from either array (R46, R90). -/
theorem fetchArray_spec (sp : Space) (a : Addr) (s : State) :
    ∃ t v, fetchArray sp a s = .next t ∧ t.response = .fetched v ∧
      v.toNat = ∑ k ∈ Finset.range 4,
        (byteAt sp s (indexOf s.cfg sp a + k)).toNat * 2 ^ (8 * (3 - k)) ∧
      UnchangedBut [.response] s t := by
  refine ⟨_, _, rfl, rfl, ?_, unchangedBut_answer _ s⟩
  rw [BitVec.toNat_setWidth, Nat.mod_eq_of_lt (toNat_memRead_word_lt sp s a)]
  exact toNat_memRead sp s a .word

/-! ## Bulk reads -/

/-- What BULK_READ answers: the bytes of the range, or that it fails (R91). -/
def bulkReadAnswer (a : Addr) (len : Nat) (s : State) : Response :=
  if len = 0 then .bytes []
  else
    match rangeSpace s.cfg a len with
    | some sp => .bytes (bytesAt sp s (indexOf s.cfg sp a) len)
    | none => .bulkFailed

theorem exec_bulkRead (a : Addr) (len : Nat) (s : State) :
    exec (.bulkRead a len) s = .next (respond (bulkReadAnswer a len s) s) := by
  by_cases h0 : len = 0
  · simp only [exec, execBulkRead, bulkReadAnswer, if_pos h0]
  · cases hsp : rangeSpace s.cfg a len with
    | some sp => simp only [exec, execBulkRead, bulkReadAnswer, if_neg h0, hsp]
    | none => simp only [exec, execBulkRead, bulkReadAnswer, if_neg h0, hsp]

section
variable {a : Addr} {len : Nat} {s : State}

theorem bulkReadAnswer_outside (hl : 0 < len) (h : rangeSpace s.cfg a len = none) :
    bulkReadAnswer a len s = .bulkFailed := by
  rw [bulkReadAnswer, if_neg hl.ne', h]

theorem bulkReadAnswer_inside {sp : Space} (hl : 0 < len) (h : rangeSpace s.cfg a len = some sp) :
    ∃ bs, bulkReadAnswer a len s = .bytes bs ∧ bs.length = len ∧
      ∀ k < len, bs[k]? = some (byteAt sp s (indexOf s.cfg sp a + k)) := by
  refine ⟨bytesAt sp s (indexOf s.cfg sp a) len, ?_, length_bytesAt _ _ _ _, fun k hk => ?_⟩
  · rw [bulkReadAnswer, if_neg hl.ne', h]
  · simp [bytesAt, hk]

end

/-! ## Bulk writes -/

theorem exec_bulkWrite_nil (a : Addr) (s : State) : exec (.bulkWrite a []) s = finish s := rfl

section
variable {a : Addr} {bs : List Byte} {s : State}

theorem exec_bulkWrite_inside {sp : Space} (hbs : bs ≠ [])
    (h : rangeSpace s.cfg a bs.length = some sp) :
    exec (.bulkWrite a bs) s = finish (writeBytes sp (indexOf s.cfg sp a) bs s) := by
  simp only [exec, execBulkWrite, if_neg hbs, h]

theorem exec_bulkWrite_outside (hbs : bs ≠ []) (h : rangeSpace s.cfg a bs.length = none) :
    exec (.bulkWrite a bs) s = .next (respond .bulkFailed s) := by
  simp only [exec, execBulkWrite, if_neg hbs, h]

theorem byteAt_writeBytes_at (sp : Space) (i : Nat) (s : State) {k : Nat} (hk : k < bs.length) :
    some (byteAt sp (writeBytes sp i bs s) (i + k)) = bs[k]? := by
  rw [byteAt_writeBytes, if_pos (by omega), Nat.add_sub_cancel_left, List.getD_eq_getElem _ _ hk,
    List.getElem?_eq_getElem hk]

theorem byteAt_writeBytes_outside (sp : Space) {i : Nat} (s : State) {j : Nat}
    (hj : j < i ∨ i + bs.length ≤ j) : byteAt sp (writeBytes sp i bs s) j = byteAt sp s j := by
  rw [byteAt_writeBytes, if_neg (by omega)]

/-- A bulk write of a range inside either array (R92). -/
theorem bulkWrite_spec {sp : Space} (hbs : bs ≠ []) (h : rangeSpace s.cfg a bs.length = some sp) :
    ∃ t, exec (.bulkWrite a bs) s = .next t ∧ t.response = .done ∧
      (∀ k < bs.length, some (byteAt sp t (indexOf s.cfg sp a + k)) = bs[k]?) ∧
      (∀ j, j < indexOf s.cfg sp a ∨ indexOf s.cfg sp a + bs.length ≤ j →
        byteAt sp t j = byteAt sp s j) ∧
      UnchangedBut [.response, bytesPart sp] s t :=
  ⟨_, exec_bulkWrite_inside hbs h, rfl, fun _ hk => byteAt_writeBytes_at sp _ s hk,
    fun _ hj => byteAt_writeBytes_outside sp s hj,
    unchangedBut_respond _ (unchangedBut_writeBytes sp _ bs s)⟩

end

/-! ## The obligations -/

/-- Settles O18: both arrays are fetched from alike, and a fetch from elsewhere only answers. -/
theorem fetchesAnswerWordOrUnmapped : Obligations.FetchesAnswerWordOrUnmapped := by
  intro a s
  rw [exec_ifetchRam, exec_ifetchRom, exec_ifetchOther]
  exact ⟨fetchArray_spec .ram a s, fetchArray_spec .rom a s, _, rfl, rfl, unchangedBut_answer _ s⟩

/-- Settles O25: only the answer depends on where the range lies, and in an admitted configuration no
range that is not empty lies inside both arrays. -/
theorem bulkReads : Obligations.BulkReads := by
  intro a len s
  refine ⟨_, exec_bulkRead a len s, unchangedBut_answer _ s, fun h0 => if_pos h0, fun hc hl => ?_⟩
  refine ⟨fun hram => ?_, fun hrom => ?_, fun hram hrom => ?_⟩
  · exact bulkReadAnswer_inside hl (rangeSpace_ram hram)
  · exact bulkReadAnswer_inside hl (rangeSpace_rom hc hl hrom)
  · exact bulkReadAnswer_outside hl (rangeSpace_none hram hrom)

/-- Settles O26: by where the range lies; ROM_WRITABLE is looked at nowhere. -/
theorem bulkWrites : Obligations.BulkWrites := by
  intro a bs s hc
  refine ⟨?_, fun hbs hram => ?_, fun hbs hrom => ?_, fun hbs hram hrom => ?_⟩
  · rintro rfl
    exact ⟨_, exec_bulkWrite_nil a s, rfl, unchangedBut_answer _ s⟩
  · exact bulkWrite_spec hbs (rangeSpace_ram hram)
  · exact bulkWrite_spec hbs (rangeSpace_rom hc (List.length_pos_iff.2 hbs) hrom)
  · exact ⟨_, exec_bulkWrite_outside hbs (rangeSpace_none hram hrom), rfl, unchangedBut_answer _ s⟩

/-- Settles O22: each of the eight is a BusException and nothing more. -/
theorem exceptionalAccesses : Obligations.ExceptionalAccesses := by
  intro w a v8 v16 v s
  refine ⟨fun i hi => ?_, fun i hi => ?_⟩
  · rw [exec_of_unmapped s hi]
    exact busException_spec .unmapped s
  · rw [exec_of_badWidth s hi]
    exact busException_spec .badWidth s

/-- Settles O23: the read answers the stored word, the write stores it. -/
theorem cacheControlIsInertStorage : Obligations.CacheControlIsInertStorage := by
  intro v s
  rw [exec_readCcr, exec_writeCcr]
  exact ⟨⟨_, rfl, rfl, unchangedBut_answer _ s⟩,
    _, rfl, rfl, rfl, unchangedBut_respond _ (unchangedBut_setCcr v s)⟩

/-- Settles O24: the read answers a drawn word and counts the draw, the write is refused. -/
theorem unassignedOffsets : Obligations.UnassignedOffsets := by
  intro a v s
  rw [exec_readApbUnassigned]
  exact ⟨⟨_, free s 32 0, rfl, rfl, unchangedBut_respond _ (unchangedBut_drew 1 s)⟩, rfl⟩

end Sys2Proof.Machine
end

section
/-! PROOFS. The interrupt controller (42_interrupt_controller.md R94 to R108): its calls and
register writes are one change of the latches each, after which the arbiter runs; its reads change
nothing. -/

namespace Sys2Proof.Machine

/-! ## Latch bits -/

/-- Raising a level sets its pending bit and no other (R98). -/
theorem getLsbD_raisedIc (l : Nat) (c : Ic) {b : Nat} (hb : b < 16) :
    (raisedIc l c).pending.getLsbD b = (c.pending.getLsbD b || decide (b = l)) := by
  rw [raisedIc, BitVec.getLsbD_or, getLsbD_levelBit, decide_eq_true hb, Bool.true_and]

/-- Taking a level's bit out of a latch leaves every other bit (R99). -/
theorem getLsbD_and_not_levelBit (x : Half) (l : Nat) {b : Nat} (hb : b < 16) :
    (x &&& ~~~levelBit l).getLsbD b = (x.getLsbD b && decide (b ≠ l)) := by
  rw [BitVec.getLsbD_and, BitVec.getLsbD_not, getLsbD_levelBit, decide_eq_true hb, Bool.true_and,
    Bool.true_and, decide_not]

@[simp] theorem acknowledgedIc_mask (l : Nat) (c : Ic) : (acknowledgedIc l c).mask = c.mask := by
  unfold acknowledgedIc
  split <;> rfl

theorem acknowledgedIc_of_forced {l : Nat} {c : Ic} (h : c.forced.getLsbD l = true) :
    acknowledgedIc l c = { c with forced := c.forced &&& ~~~levelBit l } := if_pos h

theorem acknowledgedIc_of_not_forced {l : Nat} {c : Ic} (h : c.forced.getLsbD l = false) :
    acknowledgedIc l c = { c with pending := c.pending &&& ~~~levelBit l } := if_neg (by simp [h])

/-- A narrow register takes bits 15:0 of the word (30_encoding.md R71). -/
theorem getLsbD_low16 (v : Word) {b : Nat} (hb : b < 16) : (low16 v).getLsbD b = v.getLsbD b := by
  simp [low16, hb]

theorem getLsbD_and_not_low16 (x : Half) (v : Word) {b : Nat} (hb : b < 16) :
    (x &&& ~~~low16 v).getLsbD b = (x.getLsbD b && !v.getLsbD b) := by
  rw [BitVec.getLsbD_and, BitVec.getLsbD_not, getLsbD_low16 v hb, decide_eq_true hb, Bool.true_and]

/-! ## Latch changes -/

theorem unchangedBut_setLatches (ic : Ic) (s : State) :
    UnchangedBut [.ic, .notices] s (setLatches ic s) := by
  intro p hp
  cases p with
  | ic | notices => exact absurd hp (by decide)
  | romBytes | ramBytes => exact fun _ => rfl
  | queue | hostIn => exact ⟨rfl, rfl⟩
  | _ => rfl

/-- An answered latch change notifies the CPU of the level the arbiter finds in the new latches, if
it differs (R95), and touches the answer, the latches and the notifications only. -/
theorem respond_setLatches_spec (r : Response) (ic : Ic) (s : State) :
    (respond r (setLatches ic s)).notices =
        (if irl (respond r (setLatches ic s)) = irl s then s.notices
        else s.notices ++ [irl (respond r (setLatches ic s))]) ∧
      UnchangedBut [.response, .ic, .notices] s (respond r (setLatches ic s)) :=
  ⟨rfl, unchangedBut_respond r (unchangedBut_setLatches ic s)⟩

/-! ## The operations -/

theorem levelOk_iff (l : Byte) : levelOk l = true ↔ 1 ≤ l.toNat ∧ l.toNat ≤ 15 := by
  simp [levelOk]

theorem not_levelOk_of_outside {l : Byte} (h : l.toNat = 0 ∨ 15 < l.toNat) : ¬levelOk l = true := by
  rw [levelOk_iff]
  omega

theorem exec_irqRaise_of_levelOk {l : Byte} (h : levelOk l = true) (s : State) :
    exec (.irqRaise l) s = .next (respond .done (setLatches (raisedIc l.toNat s.ic) s)) := if_pos h

theorem exec_irqRaise_of_not_levelOk {l : Byte} (h : ¬levelOk l = true) (s : State) :
    exec (.irqRaise l) s = .refused .badLevel := if_neg h

theorem exec_irqAck_of_levelOk {l : Byte} (h : levelOk l = true) (s : State) :
    exec (.irqAck l) s = .next (respond .done (setLatches (acknowledgedIc l.toNat s.ic) s)) :=
  if_pos h

theorem exec_irqAck_of_not_levelOk {l : Byte} (h : ¬levelOk l = true) (s : State) :
    exec (.irqAck l) s = .refused .badLevel := if_neg h

theorem exec_irqPoll (s : State) : exec .irqPoll s = .next (respond (.level (irl s)) s) := rfl

theorem exec_writeIrqMask (v : Word) (s : State) :
    exec (.writeIrqMask v) s =
      .next (respond (.written s.cfg.wsApbW) (setLatches { s.ic with mask := low16 v } s)) := rfl

theorem exec_writeIrqForce (v : Word) (s : State) :
    exec (.writeIrqForce v) s =
      .next (respond (.written s.cfg.wsApbW) (setLatches { s.ic with forced := low16 v } s)) := rfl

theorem exec_writeIrqClear (v : Word) (s : State) :
    exec (.writeIrqClear v) s =
      .next (respond (.written s.cfg.wsApbW)
        (setLatches { s.ic with pending := s.ic.pending &&& ~~~low16 v } s)) := rfl

theorem exec_readIrqMask (s : State) : exec .readIrqMask s = returnHalf s.ic.mask s := rfl

theorem exec_readIrqPending (s : State) : exec .readIrqPending s = returnHalf s.ic.pending s := rfl

theorem exec_readIrqForce (s : State) : exec .readIrqForce s = returnHalf s.ic.forced s := rfl

theorem exec_readIrqClear (s : State) :
    exec .readIrqClear s = returnWord (free s 32 0) (drew 1 s) := rfl

/-- A 16-bit register reads as its latch below a drawn half, and only the draw is counted (R65). -/
theorem returnHalf_spec (v : Half) (s : State) :
    ∃ (t : State) (d : Word), returnHalf v s = .next t ∧
      t.response = .value .word (d.setWidth 64) s.cfg.wsApbR ∧
      d.extractLsb' 0 16 = v ∧ UnchangedBut [.response, .draws] s t :=
  ⟨_, _, rfl, rfl, extractLsb'_halfWord _ v, unchangedBut_respond _ (unchangedBut_drew 1 s)⟩

/-- Every call that can change a latch, and every write of an interrupt register, is one latch
change that is answered. -/
theorem exec_eq_respond_setLatches {l : Byte} {v : Word} {i : Instr} {s t : State}
    (hi : i ∈ [Instr.irqRaise l, .irqAck l, .writeIrqMask v, .writeIrqForce v, .writeIrqClear v])
    (h : exec i s = .next t) : ∃ r ic, t = respond r (setLatches ic s) := by
  simp only [List.mem_cons, List.not_mem_nil, or_false] at hi
  rcases hi with rfl | rfl | rfl | rfl | rfl
  · by_cases hl : levelOk l = true
    · cases (exec_irqRaise_of_levelOk hl s).symm.trans h
      exact ⟨_, _, rfl⟩
    · cases (exec_irqRaise_of_not_levelOk hl s).symm.trans h
  · by_cases hl : levelOk l = true
    · cases (exec_irqAck_of_levelOk hl s).symm.trans h
      exact ⟨_, _, rfl⟩
    · cases (exec_irqAck_of_not_levelOk hl s).symm.trans h
  all_goals
    cases h
    exact ⟨_, _, rfl⟩

/-! ## The obligations -/

/-- Settles O27: the asserted level is what the scan down from level 15 finds in the active bits. -/
theorem assertedLevelIsHighest : Obligations.AssertedLevelIsHighest :=
  fun s => highestActive_spec s.ic.active 15

/-- Settles O28: a raise is a change of the pending latch by the level's bit. -/
theorem raiseSetsPending : Obligations.RaiseSetsPending := by
  intro l s
  refine ⟨fun h1 h15 => ?_, fun h => exec_irqRaise_of_not_levelOk (not_levelOk_of_outside h) s⟩
  exact ⟨_, exec_irqRaise_of_levelOk ((levelOk_iff l).2 ⟨h1, h15⟩) s, rfl,
    fun b hb => getLsbD_raisedIc l.toNat s.ic hb, rfl, rfl,
    respond_setLatches_spec _ _ s⟩

/-- Settles O29: by whether the level's forced bit is set. -/
theorem acknowledgeClearsForcedFirst : Obligations.AcknowledgeClearsForcedFirst := by
  intro l s
  refine ⟨fun h1 h15 => ?_, fun h => exec_irqAck_of_not_levelOk (not_levelOk_of_outside h) s⟩
  refine ⟨_, exec_irqAck_of_levelOk ((levelOk_iff l).2 ⟨h1, h15⟩) s, rfl,
    acknowledgedIc_mask l.toNat s.ic, fun hf => ?_, fun hf => ?_,
    respond_setLatches_spec _ _ s⟩
  · rw [acknowledgedIc_of_forced hf]
    exact ⟨rfl, fun b hb => getLsbD_and_not_levelBit s.ic.forced l.toNat hb⟩
  · rw [acknowledgedIc_of_not_forced hf]
    exact ⟨rfl, fun b hb => getLsbD_and_not_levelBit s.ic.pending l.toNat hb⟩

/-- Settles O31: each write is a change of its one latch. -/
theorem interruptRegisterWrites : Obligations.InterruptRegisterWrites := by
  intro v s
  rw [exec_writeIrqMask, exec_writeIrqForce, exec_writeIrqClear]
  refine ⟨?mask, ?force, ?clear⟩
  case mask =>
    exact ⟨_, rfl, rfl, fun b hb => getLsbD_low16 v hb, rfl, rfl, respond_setLatches_spec _ _ s⟩
  case force =>
    exact ⟨_, rfl, rfl, fun b hb => getLsbD_low16 v hb, rfl, rfl, respond_setLatches_spec _ _ s⟩
  case clear =>
    exact ⟨_, rfl, rfl, fun b hb => getLsbD_and_not_low16 s.ic.pending v hb, rfl, rfl,
      respond_setLatches_spec _ _ s⟩

/-- Settles O32: three reads of a 16-bit latch, and a drawn word for IRQ_CLEAR. -/
theorem interruptRegisterReads : Obligations.InterruptRegisterReads := by
  intro s
  refine ⟨fun p hp => ?_, ?_⟩
  · simp only [List.mem_cons, List.not_mem_nil, or_false] at hp
    rcases hp with rfl | rfl | rfl
    · rw [exec_readIrqMask]
      exact returnHalf_spec s.ic.mask s
    · rw [exec_readIrqPending]
      exact returnHalf_spec s.ic.pending s
    · rw [exec_readIrqForce]
      exact returnHalf_spec s.ic.forced s
  · rw [exec_readIrqClear]
    exact ⟨_, free s 32 0, rfl, rfl, unchangedBut_respond _ (unchangedBut_drew 1 s)⟩

/-- Settles O33: each of the five is an answered latch change, which notifies as R95 says. -/
theorem levelChangesAreNotified : Obligations.LevelChangesAreNotified := by
  intro l v s t i hi h
  obtain ⟨r, ic, rfl⟩ := exec_eq_respond_setLatches hi h
  exact (respond_setLatches_spec r ic s).left

/-- Settles O30: a poll only answers. -/
theorem pollAnswersAssertedLevel : Obligations.PollAnswersAssertedLevel :=
  fun s => ⟨_, exec_irqPoll s, rfl, unchangedBut_answer _ s⟩

/-- Settles O35: the three arms refuse in every state. -/
theorem meaninglessWritesRefused : Obligations.MeaninglessWritesRefused := by
  intro v s i hi
  simp only [List.mem_cons, List.not_mem_nil, or_false] at hi
  rcases hi with rfl | rfl | rfl <;> rfl

end Sys2Proof.Machine
end

section
/-! PROOFS. The timer block (43_timer.md R109 to R124): the prescaler's registers and its event, the
registers of the two channels, and the round trip of a channel that reloads. -/

namespace Sys2Proof.Machine

/-! ## Frames -/

theorem unchangedBut_setChannel (n : Chan) (c : Channel) (s : State) :
    UnchangedBut [channelPart n] s (setChannel n c s) := by
  intro p hp
  rw [List.mem_singleton] at hp
  cases p with
  | t1 =>
    cases n with
    | one => exact absurd rfl hp
    | two => rfl
  | t2 =>
    cases n with
    | one => rfl
    | two => exact absurd rfl hp
  | romBytes | ramBytes => cases n <;> exact fun _ => rfl
  | queue | hostIn => cases n <;> exact ⟨rfl, rfl⟩
  | _ => cases n <;> rfl

theorem unchangedBut_loadPrescaler (v : Half) (s : State) :
    UnchangedBut [.pre, .queue] s (loadPrescaler v s) := by
  intro p hp
  cases p with
  | pre | queue => exact absurd hp (by decide)
  | romBytes | ramBytes => exact fun _ => rfl
  | hostIn => exact ⟨rfl, rfl⟩
  | _ => rfl

theorem unchangedBut_prescalerEvent (s : State) :
    UnchangedBut [.pre, .queue, .t1, .t2, .ic, .notices] s (prescalerEvent s) := by
  rw [prescalerEvent_eq]
  intro p hp
  cases p with
  | pre | queue | t1 | t2 | ic | notices => exact absurd hp (by decide)
  | romBytes | ramBytes => exact fun _ => rfl
  | hostIn => exact ⟨rfl, rfl⟩
  | _ => rfl

/-! ## The prescaler's registers -/

/-- Until the event is due, the time since the load and the remaining value add up to the scaler
(R109). -/
theorem toNat_preRemaining {p : Prescaler} {now : Nat} (d : Half)
    (hdue : now ≤ p.loadedAt + p.scaler.toNat) :
    (preRemaining p now d).toNat + (now - p.loadedAt) = p.scaler.toNat := by
  have hlt := p.scaler.isLt
  have hle : now - p.loadedAt ≤ p.scaler.toNat := by omega
  rw [preRemaining, if_pos hle, BitVec.toNat_ofNat, Nat.mod_eq_of_lt (by omega)]
  exact Nat.sub_add_cancel hle

theorem exec_readPreValue (s : State) :
    exec .readPreValue s =
      .next (respond (.value .word
        ((halfWord (free s 16 0) (preRemaining s.pre s.sched.now (free s 16 1))).setWidth 64)
        s.cfg.wsApbR) (drew 2 s)) := rfl

theorem exec_readPreReload (s : State) : exec .readPreReload s = returnHalf s.pre.scaler s := rfl

theorem exec_writePreReload (v : Word) (s : State) :
    exec (.writePreReload v) s =
      .next (respond (.written s.cfg.wsApbW) (loadPrescaler (low16 v) s)) := rfl

/-- Settles O36: both are 16-bit reads; what is left of the count is `toNat_preRemaining`. -/
theorem prescalerReads : Obligations.PrescalerReads := by
  intro s
  rw [exec_readPreValue, exec_readPreReload]
  refine ⟨⟨_, _, rfl, rfl, fun _ hdue => ?_, ?_⟩, returnHalf_spec s.pre.scaler s⟩
  · rw [extractLsb'_halfWord]
    exact toNat_preRemaining _ hdue
  · exact unchangedBut_respond _ (unchangedBut_drew 2 s)

/-- Settles O37: the write is one load of the prescaler, answered. -/
theorem prescalerReloadRestarts : Obligations.PrescalerReloadRestarts := by
  intro v s
  have hlow : v.toNat % 2 ^ 16 = (low16 v).toNat := (BitVec.toNat_setWidth 16 v).symm
  refine ⟨_, exec_writePreReload v s, rfl, fun b hb => getLsbD_low16 v hb, rfl, ?_,
    fun src hsrc => slot_put_other _ _ hsrc, rfl,
    unchangedBut_respond _ (unchangedBut_loadPrescaler _ s)⟩
  rw [hlow]
  rfl

/-! ## One decrement of a channel -/

theorem tickedChannel_of_ne_zero {c : Channel} (hen : c.en = true) (h : c.counter ≠ 0) :
    tickedChannel c = { c with counter := c.counter - 1 } := by
  rw [tickedChannel, if_pos hen, if_neg h]

/-- An underflow with reload-on-underflow set takes the reload (R115). -/
theorem tickedChannel_of_zero {c : Channel} (hen : c.en = true) (hrl : c.rl = true)
    (h : c.counter = 0) : tickedChannel c = { c with counter := c.reload } := by
  rw [tickedChannel, if_pos hen, if_pos h, if_pos hrl]

/-- A decrement touches the counter only, by the cases of R115. -/
theorem tickedChannel_spec (c : Channel) :
    (tickedChannel c).reload = c.reload ∧ (tickedChannel c).en = c.en ∧
    (tickedChannel c).rl = c.rl ∧
    (tickedChannel c).counter =
      if c.en = false then c.counter
      else if c.counter ≠ 0 then c.counter - 1
      else if c.rl then c.reload else 0xFFFFFFFF#32 := by
  unfold tickedChannel
  by_cases hen : c.en = true
  · by_cases h : c.counter = 0 <;> simp [hen, h]
  · simp [hen]

/-! ## The prescaler event -/

@[simp] theorem channel_setResponse (n : Chan) (s : State) (r : Response) :
    channel n (s.setResponse r) = channel n s := by cases n <;> rfl

/-- The event schedules the prescaler again, so it does not matter that its entry was removed
before (R110, 45_host_and_lifecycle.md R142). -/
theorem prescalerEvent_dequeue (s : State) :
    prescalerEvent (dequeue .prescaler s) = prescalerEvent s := rfl

theorem exec_evPrescaler (s : State) :
    exec .evPrescaler s = .next (respond .done (prescalerEvent s)) :=
  congrArg finish (prescalerEvent_dequeue s)

theorem prescalerEvent_pre (s : State) :
    (prescalerEvent s).pre = ⟨s.pre.scaler, s.sched.now⟩ := by rw [prescalerEvent_eq]

theorem prescalerEvent_sched (s : State) :
    (prescalerEvent s).sched = (schedule .prescaler (s.pre.scaler.toNat + 1) s).sched := by
  rw [prescalerEvent_eq, schedule_eq]

theorem prescalerEvent_ic (s : State) :
    (prescalerEvent s).ic = tickedIc s.cfg.irqT2 s.t2 (tickedIc s.cfg.irqT1 s.t1 s.ic) := by
  rw [prescalerEvent_eq]

@[simp] theorem prescalerEvent_cfg (s : State) : (prescalerEvent s).cfg = s.cfg := by
  rw [prescalerEvent_eq]

/-- Settles O38: the load of the prescaler, then one decrement of each channel. -/
theorem prescalerEventDecrements : Obligations.PrescalerEventDecrements := by
  intro s
  have hpre := prescalerEvent_pre s
  have hsched := prescalerEvent_sched s
  have hic := prescalerEvent_ic s
  refine ⟨_, exec_evPrescaler s, rfl, ?_⟩
  simp only [respond, setResponse_pre, setResponse_sched, setResponse_ic, channel_setResponse, hpre,
    hsched, hic, tickedIc_forced, tickedIc_mask, channel_prescalerEvent, true_and]
  refine ⟨rfl, rfl, fun src hsrc => slot_put_other _ _ hsrc,
    fun n => tickedChannel_spec (channel n s), fun b hb => ?_,
    unchangedBut_respond .done (unchangedBut_prescalerEvent s)⟩
  rw [getLsbD_tickedIc _ _ _ hb, getLsbD_tickedIc _ _ _ hb]

/-! ## Channel registers -/

/-- A register write of a channel stores the channel's new registers and changes nothing else. -/
theorem writeChannel_spec (n : Chan) (c : Channel) (s : State) :
    ∃ t, returnWritten (setChannel n c s) = .next t ∧ t.response = .written s.cfg.wsApbW ∧
      channel n t = c ∧ UnchangedBut [.response, channelPart n] s t := by
  refine ⟨_, rfl, ?_, ?_, unchangedBut_respond _ (unchangedBut_setChannel n c s)⟩
  · cases n <;> rfl
  · cases n <;> rfl

theorem exec_of_counterOrReloadWrite {v : Word} {p : Chan × Instr × Instr} (s : State)
    (hp : p ∈ [(Chan.one, Instr.writeT1Counter v, Instr.writeT1Reload v),
      (.two, .writeT2Counter v, .writeT2Reload v)]) :
    exec p.2.1 s = writeCounter p.1 v s ∧ exec p.2.2 s = writeReload p.1 v s := by
  simp only [List.mem_cons, List.not_mem_nil, or_false] at hp
  rcases hp with rfl | rfl <;> exact ⟨rfl, rfl⟩

theorem exec_of_controlWrite {v : Word} {p : Chan × Instr} (s : State)
    (hp : p ∈ [(Chan.one, Instr.writeT1Control v), (.two, .writeT2Control v)]) :
    exec p.2 s = writeControl p.1 v s := by
  simp only [List.mem_cons, List.not_mem_nil, or_false] at hp
  rcases hp with rfl | rfl <;> rfl

theorem exec_of_wholeWordRead {p : Instr × Word} (s : State)
    (hp : p ∈ [(Instr.readT1Counter, s.t1.counter), (.readT2Counter, s.t2.counter),
      (.readT1Reload, s.t1.reload), (.readT2Reload, s.t2.reload)]) :
    exec p.1 s = returnWord p.2 s := by
  simp only [List.mem_cons, List.not_mem_nil, or_false] at hp
  rcases hp with rfl | rfl | rfl | rfl <;> rfl

theorem exec_of_controlRead {p : Instr × Channel} (s : State)
    (hp : p ∈ [(Instr.readT1Control, s.t1), (.readT2Control, s.t2)]) :
    exec p.1 s = returnWord (controlWord s.cfg p.2 (free s 32 0)) (drew 1 s) := by
  simp only [List.mem_cons, List.not_mem_nil, or_false] at hp
  rcases hp with rfl | rfl <;> rfl

/-- EN and RL stand in their bits of the control word, whatever was drawn for the others (R123). -/
theorem getLsbD_controlWord {c : Config} (h : c.admitted = true) (ch : Channel) (d : Word) :
    (controlWord c ch d).getLsbD c.bitEn = ch.en ∧
    (controlWord c ch d).getLsbD c.bitRl = ch.rl := by
  obtain ⟨hEn, hRl, -, hnodup, -⟩ := admitted_bits h
  have hne : c.bitRl ≠ c.bitEn := by
    intro heq
    simp [heq] at hnodup
  rw [controlWord, getLsbD_putBit _ _ hRl hEn, getLsbD_putBit _ _ hEn hEn,
    getLsbD_putBit _ _ hRl hRl, if_neg hne, if_pos rfl, if_pos rfl]
  exact ⟨rfl, rfl⟩

/-- Settles O39: each write is one change of its channel's registers. -/
theorem counterAndReloadWrites : Obligations.CounterAndReloadWrites := by
  intro v s p hp
  obtain ⟨hcounter, hreload⟩ := exec_of_counterOrReloadWrite s hp
  rw [hcounter, hreload]
  exact ⟨writeChannel_spec p.1 _ s, writeChannel_spec p.1 _ s⟩

/-- Settles O40: the channel becomes what `controlWrite` makes of it. -/
theorem controlWrites : Obligations.ControlWrites := by
  intro v s p hp
  rw [exec_of_controlWrite s hp]
  obtain ⟨t, hexec, hresp, hch, hframe⟩ :=
    writeChannel_spec p.1 (controlWrite s.cfg (channel p.1 s) v) s
  refine ⟨t, hexec, hresp, ?_⟩
  rw [hch]
  exact ⟨rfl, rfl, rfl, rfl, hframe⟩

/-- Settles O41: a counter or reload read answers the word; a control read answers `controlWord`. -/
theorem channelReads : Obligations.ChannelReads := by
  intro s
  refine ⟨fun p hp => ?_, fun ha p hp => ?_⟩
  · rw [exec_of_wholeWordRead s hp]
    exact ⟨_, rfl, rfl, unchangedBut_answer _ s⟩
  · rw [exec_of_controlRead s hp]
    obtain ⟨hen, hrl⟩ := getLsbD_controlWord ha p.2 (free s 32 0)
    exact ⟨_, _, rfl, rfl, hen, hrl, unchangedBut_respond _ (unchangedBut_drew 1 s)⟩

/-! ## The round trip -/

theorem prescalerEvent_iterate_cfg (k : Nat) (s : State) : (prescalerEvent^[k] s).cfg = s.cfg := by
  induction k with
  | zero => rfl
  | succ k ih => rw [Function.iterate_succ_apply', prescalerEvent_cfg, ih]

theorem getLsbD_tickedIc_self {l : Nat} (hl : l < 16) (c : Channel) (ic : Ic) :
    (tickedIc l c ic).pending.getLsbD l =
      (ic.pending.getLsbD l || (c.en && decide (c.counter = 0))) := by
  rw [getLsbD_tickedIc l c ic hl, decide_eq_true rfl, Bool.true_and]

theorem getLsbD_tickedIc_other {l b : Nat} (hb : b < 16) (hne : b ≠ l) (c : Channel) (ic : Ic) :
    (tickedIc l c ic).pending.getLsbD b = ic.pending.getLsbD b := by
  rw [getLsbD_tickedIc l c ic hb, decide_eq_false hne, Bool.false_and, Bool.false_and,
    Bool.or_false]

/-- The channels' levels differ, so a prescaler event sets a channel's pending bit only by that
channel's own underflow (R115). -/
theorem pending_prescalerEvent {s : State} (ha : s.cfg.admitted = true) (n : Chan) :
    (prescalerEvent s).ic.pending.getLsbD (channelLevel s.cfg n) =
      (s.ic.pending.getLsbD (channelLevel s.cfg n) ||
        ((channel n s).en && decide ((channel n s).counter = 0))) := by
  obtain ⟨-, h1, -, h2, -, -, hne, -⟩ := admitted_levels ha
  rw [prescalerEvent_ic]
  cases n with
  | one =>
    exact (getLsbD_tickedIc_other (by omega) hne _ _).trans (getLsbD_tickedIc_self (by omega) _ _)
  | two =>
    rw [← getLsbD_tickedIc_other (l := s.cfg.irqT1) (b := channelLevel s.cfg .two)
      (Nat.lt_succ_of_le h2) hne.symm s.t1 s.ic]
    exact getLsbD_tickedIc_self (by omega) _ _

/-- The channel `k` decrements on, as long as its counter lasts. -/
def countedDown (c : Channel) (k : Nat) : Channel :=
  { c with counter := c.counter - BitVec.ofNat 32 k }

theorem toNat_countedDown {c : Channel} {k : Nat} (hk : k ≤ c.counter.toNat) :
    (countedDown c k).counter.toNat + k = c.counter.toNat := by
  simp only [countedDown]
  bv_omega

theorem counter_countedDown_ne_zero {c : Channel} {k : Nat} (hk : k < c.counter.toNat) :
    (countedDown c k).counter ≠ 0 := by
  have hsum := toNat_countedDown hk.le
  intro hzero
  rw [hzero] at hsum
  exact hk.ne (by simpa using hsum)

theorem counter_countedDown_end (c : Channel) : (countedDown c c.counter.toNat).counter = 0 :=
  BitVec.eq_of_toNat_eq (by simpa using toNat_countedDown (le_refl c.counter.toNat))

theorem tickedChannel_countedDown {c : Channel} (hen : c.en = true) {k : Nat}
    (hk : k < c.counter.toNat) : tickedChannel (countedDown c k) = countedDown c (k + 1) := by
  have hsub : c.counter - BitVec.ofNat 32 k - 1 = c.counter - BitVec.ofNat 32 (k + 1) := by bv_omega
  rw [tickedChannel_of_ne_zero (c := countedDown c k) hen (counter_countedDown_ne_zero hk)]
  exact congrArg (fun w => { c with counter := w }) hsub

/-- An enabled channel counts down by one an event as long as its counter lasts (R115). -/
theorem channel_iterate {n : Chan} {s : State} (hen : (channel n s).en = true) {k : Nat}
    (hk : k ≤ (channel n s).counter.toNat) :
    channel n (prescalerEvent^[k] s) = countedDown (channel n s) k := by
  induction k with
  | zero => simp [countedDown]
  | succ k ih =>
    rw [Function.iterate_succ_apply', channel_prescalerEvent, ih (by omega),
      tickedChannel_countedDown hen hk]

/-- A counter that lasts leaves the channel's pending bit alone. -/
theorem pending_iterate {n : Chan} {s : State} (ha : s.cfg.admitted = true)
    (hen : (channel n s).en = true) {k : Nat} (hk : k ≤ (channel n s).counter.toNat) :
    (prescalerEvent^[k] s).ic.pending.getLsbD (channelLevel s.cfg n) =
      s.ic.pending.getLsbD (channelLevel s.cfg n) := by
  induction k with
  | zero => rfl
  | succ k ih =>
    have hcfg := prescalerEvent_iterate_cfg k s
    have hstep := pending_prescalerEvent (hcfg ▸ ha) n
    rw [hcfg, channel_iterate hen (by omega),
      decide_eq_false (counter_countedDown_ne_zero hk), Bool.and_false, Bool.or_false] at hstep
    rw [Function.iterate_succ_apply', hstep, ih (by omega)]

/-- Settles O42: the counter lasts for `R` events; the channel then stands at 0 and the next event
underflows it. -/
theorem timerRoundTrip : Obligations.TimerRoundTrip := by
  intro n s ha hen hrl hfull
  rw [← hfull]
  have hend := channel_iterate hen (le_refl (channel n s).counter.toNat)
  have hzero := counter_countedDown_end (channel n s)
  refine ⟨fun k hk => ⟨?_, pending_iterate ha hen hk⟩, ?channel, ?pending⟩
  · rw [channel_iterate hen hk]
    exact toNat_countedDown hk
  case channel =>
    rw [Function.iterate_succ_apply', channel_prescalerEvent, hend,
      tickedChannel_of_zero (c := countedDown (channel n s) _) hen hrl hzero]
    exact congrArg (fun w => { channel n s with counter := w }) hfull.symm
  case pending =>
    have hcfg := prescalerEvent_iterate_cfg (channel n s).counter.toNat s
    have hunderflow := pending_prescalerEvent (hcfg ▸ ha) n
    rw [hcfg, hend, decide_eq_true hzero, Bool.and_true] at hunderflow
    rw [Function.iterate_succ_apply', hunderflow]
    exact (Bool.or_eq_true _ _).mpr (.inr hen)

end Sys2Proof.Machine
end

section
/-! PROOFS. The UART (44_uart.md R126 to R140): what each of its operations answers, takes from the
host and gives to it, and raises, in buffered mode and in shift-register mode. -/

namespace Sys2Proof.Machine

/-! ## Frames -/

/-- Two steps together change no part that neither of them changes. -/
theorem UnchangedBut.trans {ps qs : List Part} {s t u : State} (h : UnchangedBut ps s t)
    (h' : UnchangedBut qs t u) : UnchangedBut (ps ++ qs) s u := by
  intro p hp
  rw [List.mem_append, not_or] at hp
  have hst := h p hp.1
  have htu := h' p hp.2
  cases p with
  | romBytes | ramBytes => exact fun i => (htu i).trans (hst i)
  | queue | hostIn => exact ⟨htu.1.trans hst.1, htu.2.trans hst.2⟩
  | _ => exact htu.trans hst

theorem UnchangedBut.mono {ps qs : List Part} {s t : State} (h : UnchangedBut ps s t)
    (hsub : ps ⊆ qs) : UnchangedBut qs s t := fun p hp => h p fun hmem => hp (hsub hmem)

theorem UnchangedBut.uartMode {ps : List Part} {s t : State} (h : UnchangedBut ps s t)
    (hcfg : .cfg ∉ ps) : t.cfg.uartMode = s.cfg.uartMode :=
  congrArg Config.uartMode (h .cfg hcfg)

section
variable (s : State)

theorem unchangedBut_setBuf (u : BufferedUart) : UnchangedBut [.buf] s (s.setBuf u) := by
  intro p hp
  cases p with
  | buf => exact absurd (List.mem_singleton_self _) hp
  | romBytes | ramBytes => exact fun _ => rfl
  | queue | hostIn => exact ⟨rfl, rfl⟩
  | _ => rfl

theorem unchangedBut_setShift (u : ShiftUart) : UnchangedBut [.shift] s (s.setShift u) := by
  intro p hp
  cases p with
  | shift => exact absurd (List.mem_singleton_self _) hp
  | romBytes | ramBytes => exact fun _ => rfl
  | queue | hostIn => exact ⟨rfl, rfl⟩
  | _ => rfl

theorem unchangedBut_hostWrite (bs : List Byte) : UnchangedBut [.host] s (hostWrite bs s) := by
  intro p hp
  cases p with
  | host => exact absurd (List.mem_singleton_self _) hp
  | romBytes | ramBytes => exact fun _ => rfl
  | queue | hostIn => exact ⟨rfl, rfl⟩
  | _ => rfl

/-- A new event queue changes nothing else, where it leaves the time as it was. -/
theorem unchangedBut_setSched {x : Sched} (h : x.now = s.sched.now) :
    UnchangedBut [.queue] s (s.setSched x) := by
  intro p hp
  cases p with
  | queue => exact absurd (List.mem_singleton_self _) hp
  | time => exact h
  | romBytes | ramBytes => exact fun _ => rfl
  | hostIn => exact ⟨rfl, rfl⟩
  | _ => rfl

theorem unchangedBut_dequeue (src : Source) : UnchangedBut [.queue] s (dequeue src s) :=
  unchangedBut_setSched s rfl

theorem unchangedBut_schedule (src : Source) (d : Nat) :
    UnchangedBut [.queue] s (schedule src d s) := unchangedBut_setSched s rfl

theorem unchangedBut_hostAfterRead (n : Nat) : UnchangedBut [.hostIn] s (hostAfterRead n s) := by
  rw [hostAfterRead_eq]
  intro p hp
  cases p with
  | hostIn => exact absurd (List.mem_singleton_self _) hp
  | romBytes | ramBytes => exact fun _ => rfl
  | queue => exact ⟨rfl, rfl⟩
  | _ => rfl

theorem unchangedBut_flushOutput : UnchangedBut [.host, .buf] s (flushOutput s) :=
  (unchangedBut_hostWrite s _).trans (unchangedBut_setBuf _ _)

theorem unchangedBut_refill : UnchangedBut [.hostIn, .buf] s (refill s) := by
  unfold refill
  split
  · exact (unchangedBut_hostAfterRead s _).trans (unchangedBut_setBuf _ _)
  · exact unchangedBut_refl _ s

theorem unchangedBut_consumeByte : UnchangedBut [.buf, .ic, .notices] s (consumeByte s) := by
  unfold consumeByte
  dsimp only
  split
  · exact (unchangedBut_setBuf s _).trans (unchangedBut_setLatches _ _)
  · exact (unchangedBut_setBuf s _).mono (by simp)

theorem sentSched_now : (sentSched s).now = s.sched.now := by
  unfold sentSched
  split <;> rfl

theorem unchangedBut_txEvent :
    UnchangedBut [.host, .shift, .queue, .ic, .notices] s (txEvent s) := by
  have hsent := (((unchangedBut_hostWrite s [s.shift.shiftReg]).trans
    (unchangedBut_setShift _ (sentShift s.shift))).trans
    (unchangedBut_setSched _ (sentSched_now s))).trans (unchangedBut_setLatches (sentIc s) _)
  rw [txEvent_eq]
  exact hsent

theorem unchangedBut_receiveByte (b : Byte) :
    UnchangedBut [.shift, .ic, .notices] s (receiveByte b s) :=
  (unchangedBut_setShift s _).trans (unchangedBut_setLatches _ _)

theorem unchangedBut_rxPollEvent :
    UnchangedBut [.hostIn, .shift, .ic, .notices, .queue] s (rxPollEvent s) := by
  have hread := unchangedBut_hostAfterRead s 1
  unfold rxPollEvent
  dsimp only
  split
  · exact (hread.trans (unchangedBut_schedule _ _ _)).mono (by simp)
  · exact (hread.trans (unchangedBut_receiveByte _ _)).trans (unchangedBut_schedule _ _ _)

end

/-! ## Shared facts -/

/-- UART_DATA takes bits 7:0 of the word written (30_encoding.md R71). -/
theorem low8_eq_extractLsb' (v : Word) : low8 v = v.extractLsb' 0 8 :=
  BitVec.setWidth_eq_extractLsb' (by decide)

/-- A host write appends to what was emitted if the output is open, and is lost otherwise (R148). -/
theorem hostWrite_host (bs : List Byte) (s : State) :
    (hostWrite bs s).host =
      if s.host.outOpen then { s.host with emitted := s.host.emitted ++ bs } else s.host := by
  rw [hostWrite_eq]
  unfold emittedAfter
  split <;> rfl

/-- A word answer, in terms of the configuration the operation began in. -/
theorem returnWord_of_cfg (v : Word) {s t : State} (h : t.cfg = s.cfg) :
    returnWord v t = .next (respond (.value .word (v.setWidth 64) s.cfg.wsApbR) t) := by
  rw [← h]
  rfl

section
variable {c : Config}

/-- DR, TS and TH stand in their bits of the buffered status word, whatever was drawn for the others
(R134). -/
theorem getLsbD_bufferedStatus (h : c.admitted = true) (u : BufferedUart) (d : Word) :
    (bufferedStatus c u d).getLsbD c.bitDr = u.dataReady ∧
    (bufferedStatus c u d).getLsbD c.bitTs = true ∧
    (bufferedStatus c u d).getLsbD c.bitTh = true := by
  obtain ⟨-, -, -, -, hDr, hTs, hTh, -, hnodup⟩ := admitted_bits h
  have hTsDr : c.bitTs ≠ c.bitDr := by intro heq; simp [heq] at hnodup
  have hThDr : c.bitTh ≠ c.bitDr := by intro heq; simp [heq] at hnodup
  simp only [bufferedStatus, getLsbD_putBit, hDr, hTs, hTh, hTsDr, hThDr, ↓reduceIte, ite_self,
    and_self]

/-- The four flags stand in their bits of the shift-mode status word (R139). -/
theorem getLsbD_shiftStatus (h : c.admitted = true) (u : ShiftUart) (d : Word) :
    (shiftStatus c u d).getLsbD c.bitDr = u.dr ∧ (shiftStatus c u d).getLsbD c.bitTs = u.ts ∧
    (shiftStatus c u d).getLsbD c.bitTh = u.th ∧ (shiftStatus c u d).getLsbD c.bitOv = u.ov := by
  obtain ⟨-, -, -, -, hDr, hTs, hTh, hOv, hnodup⟩ := admitted_bits h
  simp only [List.nodup_cons, List.mem_cons, List.not_mem_nil, or_false, not_or] at hnodup
  obtain ⟨⟨hDrTs, hDrTh, hDrOv⟩, ⟨hTsTh, hTsOv⟩, hThOv, -⟩ := hnodup
  simp only [shiftStatus, getLsbD_putBit, hDr, hTs, hTh, hOv, Ne.symm hDrTs, Ne.symm hDrTh,
    Ne.symm hDrOv, Ne.symm hTsTh, Ne.symm hTsOv, Ne.symm hThOv, ↓reduceIte, and_self]

end

/-! ## The refill -/

section
variable (s : State)

@[simp] theorem refill_cfg : (refill s).cfg = s.cfg := by rw [refill_eq]

@[simp] theorem refill_ic : (refill s).ic = s.ic := by rw [refill_eq]

@[simp] theorem refill_buf : (refill s).buf = refilledBuf s := by rw [refill_eq]

@[simp] theorem refilledBuf_outbuf : (refilledBuf s).outbuf = s.buf.outbuf := by
  unfold refilledBuf
  split <;> rfl

end

section
variable {s : State}

theorem refill_of_not_empty (h : s.buf.inConsume ≠ s.buf.inFill) : refill s = s := if_neg h

theorem refilledBuf_of_not_empty (h : s.buf.inConsume ≠ s.buf.inFill) : refilledBuf s = s.buf :=
  if_neg h

theorem refilledBuf_inFill (h : s.buf.inConsume = s.buf.inFill) :
    (refilledBuf s).inFill = (hostBytes s.cfg.bufCap s).length := by rw [refilledBuf, if_pos h]

theorem refilledBuf_inConsume (h : s.buf.inConsume = s.buf.inFill) :
    (refilledBuf s).inConsume = 0 := by rw [refilledBuf, if_pos h]

/-- The refill of an empty buffer starts it anew with the bytes of one host read, and leaves the
host's input stream as that read does (R131, R147). -/
theorem refill_of_empty (h : s.buf.inConsume = s.buf.inFill) :
    (refill s).buf.inConsume = 0 ∧
    (refill s).buf.inFill = (hostBytes s.cfg.bufCap s).length ∧
    (∀ k, (refill s).buf.inbuf[k]? =
      if k < (hostBytes s.cfg.bufCap s).length then (hostBytes s.cfg.bufCap s)[k]?
      else s.buf.inbuf[k]?) ∧
    (refill s).answers = (hostAfterRead s.cfg.bufCap s).answers ∧
    (refill s).hostReads = (hostAfterRead s.cfg.bufCap s).hostReads := by
  obtain ⟨hanswers, hreads⟩ := refill_hostIn s
  rw [if_pos h] at hanswers hreads
  rw [refill_buf]
  exact ⟨refilledBuf_inConsume h, refilledBuf_inFill h, refilledBuf_inbuf h, hanswers, hreads⟩

end

/-! ## Buffered data reads -/

/-- The word a buffered data read answers (R131). -/
def dataReadWord (s : State) : Word :=
  if (refilledBuf s).dataReady then
    byteWord (free s 24 0) (nextByte (refilledBuf s) (free s 8 1))
  else free s 32 0

/-- The state a buffered data read leaves, but for the answer and the count of draws (R131). -/
def afterDataRead (s : State) : State :=
  if (refilledBuf s).dataReady then consumeByte (refill s) else refill s

section
variable (s : State)

theorem unchangedBut_afterDataRead :
    UnchangedBut [.hostIn, .buf, .ic, .notices] s (afterDataRead s) := by
  unfold afterDataRead
  split
  · exact ((unchangedBut_refill s).trans (unchangedBut_consumeByte _)).mono (by simp)
  · exact (unchangedBut_refill s).mono (by simp)

theorem exec_readUartData_buffered (h : s.cfg.uartMode = .buffered) :
    exec .readUartData s =
      .next (respond (.value .word ((dataReadWord s).setWidth 64) s.cfg.wsApbR)
        (drew 2 (afterDataRead s))) := by
  have hcfg : (drew 2 (afterDataRead s)).cfg = s.cfg :=
    unchangedBut_afterDataRead s .cfg (by decide)
  rw [← returnWord_of_cfg _ hcfg]
  simp only [exec, execReadUartData, h, bufferedDataRead, refill_buf]
  rfl

/-- The read takes one byte if one is there (R131). -/
theorem afterDataRead_buf :
    (afterDataRead s).buf =
      if (refilledBuf s).dataReady then
        { refilledBuf s with inConsume := (refilledBuf s).inConsume + 1 }
      else refilledBuf s := by
  unfold afterDataRead
  split
  · rw [consumeByte_eq, refill_buf]
    split <;> rfl
  · exact refill_buf s

@[simp] theorem afterDataRead_outbuf : (afterDataRead s).buf.outbuf = s.buf.outbuf := by
  rw [afterDataRead_buf]
  split <;> exact refilledBuf_outbuf s

/-- Taking a byte leaves the input buffer's bytes in place. -/
@[simp] theorem afterDataRead_inbuf : (afterDataRead s).buf.inbuf = (refilledBuf s).inbuf := by
  rw [afterDataRead_buf]
  split <;> rfl

@[simp] theorem afterDataRead_inFill : (afterDataRead s).buf.inFill = (refilledBuf s).inFill := by
  rw [afterDataRead_buf]
  split <;> rfl

/-- The read raises the interrupt if more than the byte it takes are there (R131). -/
theorem afterDataRead_ic :
    (afterDataRead s).ic =
      if (refilledBuf s).inConsume + 1 < (refilledBuf s).inFill then raisedIc s.cfg.irqUart s.ic
      else s.ic := by
  unfold afterDataRead
  split
  · rw [consumeByte_eq, refill_buf, refill_cfg, refill_ic]
    split <;> rfl
  · rename_i hnone
    have hfew : ¬(refilledBuf s).inConsume + 1 < (refilledBuf s).inFill := by
      simp only [BufferedUart.dataReady, decide_eq_true_eq] at hnone
      omega
    rw [if_neg hfew, refill_ic]

theorem afterDataRead_forced_mask :
    (afterDataRead s).ic.forced = s.ic.forced ∧ (afterDataRead s).ic.mask = s.ic.mask := by
  rw [afterDataRead_ic]
  split <;> exact ⟨rfl, rfl⟩

/-- Of what a buffered data read does only the refill reads the host. -/
theorem afterDataRead_hostIn : Part.hostIn.same (refill s) (afterDataRead s) := by
  unfold afterDataRead
  split
  · exact unchangedBut_consumeByte (refill s) .hostIn (by decide)
  · exact ⟨rfl, rfl⟩

end

section
variable {s : State}

/-- A byte that is there stands in bits 7:0 of the answer (30_encoding.md R68). -/
theorem dataReadWord_of_ready {b : Byte} (h : (refilledBuf s).dataReady = true)
    (hb : (refilledBuf s).inbuf[(refilledBuf s).inConsume]? = some b) :
    (dataReadWord s).extractLsb' 0 8 = b := by
  rw [dataReadWord, if_pos h, extractLsb'_byteWord, nextByte, hb, Option.getD_some]

/-- With bytes buffered the read takes the next one, without a host read. -/
theorem dataRead_of_buffered (h : s.buf.inConsume < s.buf.inFill) :
    (∀ b, s.buf.inbuf[s.buf.inConsume]? = some b → (dataReadWord s).extractLsb' 0 8 = b) ∧
    (afterDataRead s).buf = { s.buf with inConsume := s.buf.inConsume + 1 } ∧
    Part.hostIn.same s (afterDataRead s) ∧
    (afterDataRead s).ic.pending =
      if s.buf.inConsume + 1 < s.buf.inFill then s.ic.pending ||| levelBit s.cfg.irqUart
      else s.ic.pending := by
  have hbuf := refilledBuf_of_not_empty h.ne
  have hready : (refilledBuf s).dataReady = true := by rw [hbuf]; exact decide_eq_true h
  have hhost := afterDataRead_hostIn s
  rw [refill_of_not_empty h.ne] at hhost
  refine ⟨fun b hb => dataReadWord_of_ready hready (hbuf ▸ hb), ?_, hhost, ?_⟩
  · rw [afterDataRead_buf, if_pos hready, hbuf]
  · rw [afterDataRead_ic, hbuf]
    exact apply_ite Ic.pending _ _ _

/-- With an empty buffer and bytes from the host the read takes the first of them. -/
theorem dataRead_of_arrived {b : Byte} {bs : List Byte} (h : s.buf.inConsume = s.buf.inFill)
    (hbs : hostBytes s.cfg.bufCap s = b :: bs) :
    (dataReadWord s).extractLsb' 0 8 = b ∧ (afterDataRead s).buf.inFill = bs.length + 1 ∧
    (afterDataRead s).buf.inConsume = 1 ∧
    (∀ k, k < bs.length → (afterDataRead s).buf.inbuf[k + 1]? = bs[k]?) ∧
    (afterDataRead s).buf.inbuf[0]? = some b ∧
    (afterDataRead s).ic.pending =
      if bs = [] then s.ic.pending else s.ic.pending ||| levelBit s.cfg.irqUart := by
  have hfill := refilledBuf_inFill h
  have hconsume := refilledBuf_inConsume h
  have hinbuf := refilledBuf_inbuf h
  rw [hbs] at hfill hinbuf
  have hready : (refilledBuf s).dataReady = true := by
    simp [BufferedUart.dataReady, hfill, hconsume]
  have hfirst : (refilledBuf s).inbuf[0]? = some b := by simp [hinbuf]
  refine ⟨dataReadWord_of_ready hready (by rw [hconsume, hfirst]), ?_, ?_, fun k hk => ?_, ?_, ?_⟩
  · rw [afterDataRead_inFill, hfill, List.length_cons]
  · rw [afterDataRead_buf, if_pos hready, hconsume]
  · rw [afterDataRead_inbuf, hinbuf, if_pos (by simpa using hk), List.getElem?_cons_succ]
  · rw [afterDataRead_inbuf, hfirst]
  · rw [afterDataRead_ic, hfill, hconsume]
    cases bs <;> simp [raisedIc]

/-- With an empty buffer the host is read once, and its bytes take the first positions only. -/
theorem dataRead_of_empty (h : s.buf.inConsume = s.buf.inFill) :
    (afterDataRead s).answers = (hostAfterRead s.cfg.bufCap s).answers ∧
    (afterDataRead s).hostReads = (hostAfterRead s.cfg.bufCap s).hostReads ∧
    ∀ k, (hostBytes s.cfg.bufCap s).length ≤ k →
      (afterDataRead s).buf.inbuf[k]? = s.buf.inbuf[k]? := by
  obtain ⟨hanswers, hreads⟩ := afterDataRead_hostIn s
  obtain ⟨-, -, -, hanswers', hreads'⟩ := refill_of_empty h
  refine ⟨hanswers.trans hanswers', hreads.trans hreads', fun k hk => ?_⟩
  rw [afterDataRead_inbuf, refilledBuf_inbuf h, if_neg (by omega)]

/-- With an empty buffer and no byte from the host nothing is there to take. -/
theorem dataRead_of_nothing (h : s.buf.inConsume = s.buf.inFill)
    (hbs : hostBytes s.cfg.bufCap s = []) :
    (afterDataRead s).buf.inFill = 0 ∧ (afterDataRead s).buf.inConsume = 0 ∧
    (afterDataRead s).ic = s.ic := by
  have hfill : (refilledBuf s).inFill = 0 := by rw [refilledBuf_inFill h, hbs, List.length_nil]
  have hready : ¬(refilledBuf s).dataReady = true := by simp [BufferedUart.dataReady, hfill]
  rw [afterDataRead_ic, afterDataRead_buf, if_neg hready, hfill]
  exact ⟨rfl, refilledBuf_inConsume h, rfl⟩

end

/-- Settles O44: a refill, then one byte taken if one is there; by where the byte comes from. -/
theorem bufferedDataReads : Obligations.BufferedDataReads := by
  intro s hm
  obtain ⟨hforced, hmask⟩ := afterDataRead_forced_mask s
  refine ⟨_, dataReadWord s, exec_readUartData_buffered s hm, rfl, afterDataRead_outbuf s, hforced,
    hmask, ?frame, dataRead_of_buffered, fun _ _ => dataRead_of_arrived, dataRead_of_empty,
    dataRead_of_nothing⟩
  case frame =>
    exact (unchangedBut_respond _
      ((unchangedBut_afterDataRead s).trans (unchangedBut_drew 2 _))).mono (by simp)

/-! ## Buffered status reads -/

/-- The latches after a buffered status read: where bytes arrived, a draw says whether the interrupt
is raised (R134). -/
def statusReadIc (s : State) : Ic :=
  if (s.buf.inConsume = s.buf.inFill ∧ (refilledBuf s).dataReady = true) ∧ freeBit s 0 = true then
    raisedIc s.cfg.irqUart s.ic
  else s.ic

section
variable {s : State}

theorem exec_readUartStatus_buffered (h : s.cfg.uartMode = .buffered) :
    exec .readUartStatus s =
      .next (respond
        (.value .word ((bufferedStatus s.cfg (refilledBuf s) (free s 32 1)).setWidth 64)
          s.cfg.wsApbR)
        (drew 2 (setLatches (statusReadIc s) (refill s)))) := by
  rw [← returnWord_of_cfg _ (t := drew 2 (setLatches (statusReadIc s) (refill s))) (refill_cfg s)]
  simp only [exec, execReadUartStatus, h, bufferedStatusRead, refill_buf, refill_ic]
  rfl

theorem statusReadIc_of_no_byte
    (h : ¬(s.buf.inConsume = s.buf.inFill ∧ (refilledBuf s).dataReady = true)) :
    statusReadIc s = s.ic := if_neg fun harrived => h harrived.1

theorem statusReadIc_of_nothing (h : s.buf.inConsume = s.buf.inFill)
    (hbs : hostBytes s.cfg.bufCap s = []) : statusReadIc s = s.ic := by
  refine statusReadIc_of_no_byte ?_
  simp [BufferedUart.dataReady, refilledBuf_inFill h, hbs]

theorem statusReadIc_cases (s : State) :
    statusReadIc s = s.ic ∨ statusReadIc s = raisedIc s.cfg.irqUart s.ic := by
  unfold statusReadIc
  split
  · exact .inr rfl
  · exact .inl rfl

end

/-- Settles O46: a refill, and a raise where bytes arrived and the draw says so; by whether the buffer
was empty. -/
theorem bufferedStatusReads : Obligations.BufferedStatusReads := by
  intro s hm ha
  obtain ⟨hdr, hts, hth⟩ := getLsbD_bufferedStatus ha (refilledBuf s) (free s 32 1)
  refine ⟨_, _, exec_readUartStatus_buffered hm, rfl, ?dr, hts, hth, ?outbuf, fun hne => ?buffered,
    fun hempty => ?empty, statusReadIc_cases s, ?frame⟩
  case dr =>
    rw [hdr, ← refill_buf]
    rfl
  case outbuf => exact (congrArg _ (refill_buf s)).trans (refilledBuf_outbuf s)
  case buffered =>
    rw [refill_of_not_empty hne]
    exact ⟨rfl, statusReadIc_of_no_byte fun h => hne h.1, rfl, rfl⟩
  case empty =>
    obtain ⟨hconsume, hfill, hinbuf, hanswers, hreads⟩ := refill_of_empty hempty
    exact ⟨hconsume, hfill, hinbuf, hanswers, hreads, statusReadIc_of_nothing hempty⟩
  case frame =>
    exact (unchangedBut_respond _ (((unchangedBut_refill s).trans
      (unchangedBut_setLatches _ _)).trans (unchangedBut_drew 2 _))).mono (by simp)

/-! ## Buffered data writes -/

section
variable {s : State}

/-- With room in the output buffer the byte is appended (R132). -/
theorem exec_writeUartData_of_room (v : Word) (h : s.cfg.uartMode = .buffered)
    (hroom : s.buf.outbuf.length ≠ s.cfg.bufCap) :
    exec (.writeUartData v) s =
      .next (respond (.written s.cfg.wsApbW)
        (raiseUart (s.setBuf { s.buf with outbuf := s.buf.outbuf ++ [low8 v] }))) := by
  simp only [exec, execWriteUartData, h, bufferedDataWrite, if_neg hroom]
  rfl

/-- A full output buffer is flushed, so the byte stands alone in it (R132). -/
theorem exec_writeUartData_of_full (v : Word) (h : s.cfg.uartMode = .buffered)
    (hfull : s.buf.outbuf.length = s.cfg.bufCap) :
    exec (.writeUartData v) s =
      .next (respond (.written s.cfg.wsApbW)
        (raiseUart ((flushOutput s).setBuf { s.buf with outbuf := [low8 v] }))) := by
  simp only [exec, execWriteUartData, h, bufferedDataWrite, if_pos hfull]
  rfl

end

/-- Settles O45: by whether the output buffer is full. -/
theorem bufferedDataWrites : Obligations.BufferedDataWrites := by
  intro v s hm
  rw [← low8_eq_extractLsb']
  by_cases hfull : s.buf.outbuf.length = s.cfg.bufCap
  · refine ⟨_, exec_writeUartData_of_full v hm hfull, rfl, fun hne => absurd hfull hne,
      fun _ => ⟨rfl, hostWrite_host s.buf.outbuf s⟩, rfl, rfl, ?_⟩
    exact (unchangedBut_respond _ (((unchangedBut_flushOutput s).trans
      (unchangedBut_setBuf _ _)).trans (unchangedBut_setLatches _ _))).mono (by simp)
  · refine ⟨_, exec_writeUartData_of_room v hm hfull, rfl, fun _ => ⟨rfl, rfl⟩,
      fun h => absurd h hfull, rfl, rfl, ?_⟩
    exact (unchangedBut_respond _ ((unchangedBut_setBuf s _).trans
      (unchangedBut_setLatches _ _))).mono (by simp)

/-! ## Periodic flushes -/

/-- The flush schedules its source again, so it does not matter that its entry was removed before
(45_host_and_lifecycle.md R142). -/
theorem exec_evUartFlush {s : State} (h : s.cfg.uartMode = .buffered) :
    exec .evUartFlush s =
      .next (respond .done (schedule .uartFlush s.cfg.flushInterval (flushOutput s))) := by
  simp only [exec, execEvUartFlush, h]
  rfl

/-- Settles O47: a flush of the output buffer, then one new entry. -/
theorem bufferedFlushEvents : Obligations.BufferedFlushEvents := by
  intro s hm
  refine ⟨_, exec_evUartFlush hm, rfl, rfl, hostWrite_host s.buf.outbuf s, rfl, rfl,
    fun src hsrc => slot_put_other _ _ hsrc, ?_⟩
  exact (unchangedBut_respond _ ((unchangedBut_flushOutput s).trans
    (unchangedBut_schedule _ _ _))).mono (by simp)

/-! ## Shift-mode writes -/

section
variable {s : State}

/-- A free shift register takes the byte, and its transmit-complete is scheduled (R135). -/
theorem exec_writeUartData_of_free (v : Word) (h : s.cfg.uartMode = .shift)
    (hts : s.shift.ts = true) :
    exec (.writeUartData v) s =
      .next (respond (.written s.cfg.wsApbW) (schedule .uartTx s.cfg.txDelay
        (s.setShift { s.shift with shiftReg := low8 v, ts := false }))) := by
  simp only [exec, execWriteUartData, h, shiftDataWrite, if_pos hts]
  rfl

/-- With the shift register busy the hold register takes the byte (R135). -/
theorem exec_writeUartData_of_busy (v : Word) (h : s.cfg.uartMode = .shift)
    (hts : s.shift.ts = false) :
    exec (.writeUartData v) s =
      .next (respond (.written s.cfg.wsApbW)
        (s.setShift { s.shift with holdReg := low8 v, th := false })) := by
  simp only [exec, execWriteUartData, h, shiftDataWrite, hts]
  rfl

end

/-- Settles O48: by whether the shift register is free. -/
theorem shiftDataWrites : Obligations.ShiftDataWrites := by
  intro v s hm
  rw [← low8_eq_extractLsb']
  cases hts : s.shift.ts with
  | true =>
    refine ⟨_, exec_writeUartData_of_free v hm hts, rfl,
      fun _ => ⟨rfl, rfl, rfl, fun src hsrc => slot_put_other _ _ hsrc⟩, nofun, ?_⟩
    exact unchangedBut_respond _ ((unchangedBut_setShift s _).trans (unchangedBut_schedule _ _ _))
  | false =>
    refine ⟨_, exec_writeUartData_of_busy v hm hts, rfl, nofun, fun _ => ⟨rfl, rfl, rfl⟩, ?_⟩
    exact (unchangedBut_respond _ (unchangedBut_setShift s _)).mono (by simp)

/-! ## Transmit-complete -/

theorem exec_evUartTx {s : State} (h : s.cfg.uartMode = .shift) :
    exec .evUartTx s = .next (respond .done (txEvent (dequeue .uartTx s))) := by
  simp only [exec, execEvUartTx, h]
  rfl

/-- With a byte held another transmit-complete is scheduled (R136). -/
theorem sentSched_of_held {s : State} (h : s.shift.th = false) :
    sentSched s = (schedule .uartTx s.cfg.txDelay s).sched := if_pos h

/-- With none held nothing is scheduled (R136). -/
theorem sentSched_of_none_held {s : State} (h : s.shift.th = true) : sentSched s = s.sched :=
  if_neg (by simp [h])

theorem sentShift_of_held {u : ShiftUart} (h : u.th = false) :
    sentShift u = { u with shiftReg := u.holdReg, th := true } := if_pos h

theorem sentShift_of_none_held {u : ShiftUart} (h : u.th = true) :
    sentShift u = { u with ts := true } := if_neg (by simp [h])

/-- Transmit-complete touches its own source's entry only. -/
theorem sentSched_slot_other (s : State) {src : Source} (h : src ≠ .uartTx) :
    (sentSched s).queue.slot src = s.sched.queue.slot src := by
  unfold sentSched
  split
  · exact slot_put_other _ _ h
  · rfl

/-- Settles O49: transmit-complete is one update of the state without its entry; by whether a byte is
held. -/
theorem shiftTransmitEvents : Obligations.ShiftTransmitEvents := by
  intro s hm
  have hframe := (unchangedBut_dequeue s .uartTx).trans (unchangedBut_txEvent (dequeue .uartTx s))
  have hexec := exec_evUartTx hm
  rw [txEvent_eq] at hframe hexec
  refine ⟨_, hexec, rfl, hostWrite_host [s.shift.shiftReg] s, fun hth => ?held, fun hth => ?none,
    fun src hsrc => ?other, rfl, rfl, (unchangedBut_respond .done hframe).mono (by simp)⟩
  case held =>
    have hsched := sentSched_of_held (s := dequeue .uartTx s) hth
    exact ⟨sentShift_of_held hth, congrArg (fun x => x.queue.slot .uartTx) hsched,
      congrArg Sched.nextSeq hsched⟩
  case none =>
    have hsched := sentSched_of_none_held (s := dequeue .uartTx s) hth
    exact ⟨sentShift_of_none_held hth, congrArg (fun x => x.queue.slot .uartTx) hsched,
      congrArg (fun x => x.nextSeq) hsched⟩
  case other =>
    exact (sentSched_slot_other _ hsrc).trans (slot_put_other _ _ hsrc)

/-! ## Receive polls -/

section
variable (s : State)

theorem hostAfterRead_dequeue (n : Nat) (src : Source) :
    hostAfterRead n (dequeue src s) = dequeue src (hostAfterRead n s) := by
  have hlistens : hostListens (dequeue src s) = hostListens s := rfl
  have hanswers : (dequeue src s).answers = s.answers := rfl
  unfold hostAfterRead
  rw [hlistens, hanswers]
  split
  · split <;> rfl
  · rfl

/-- The poll schedules its source again, so it does not matter that its entry was removed before
(45_host_and_lifecycle.md R142). -/
theorem rxPollEvent_dequeue : rxPollEvent (dequeue .uartRxPoll s) = rxPollEvent s := by
  rw [rxPollEvent_eq, rxPollEvent_eq s, hostAfterRead_dequeue]
  rfl

theorem rxPollEvent_sched :
    (rxPollEvent s).sched = (schedule .uartRxPoll s.cfg.rxPollInterval s).sched := by
  rw [rxPollEvent_eq]
  rfl

/-- Of what a poll does only its host read takes from the input stream. -/
theorem rxPollEvent_hostIn : Part.hostIn.same (hostAfterRead 1 s) (rxPollEvent s) := by
  rw [rxPollEvent_eq]
  exact ⟨rfl, rfl⟩

/-- A poll that changes the asserted level notifies the CPU (R95). -/
theorem rxPollEvent_notices :
    (rxPollEvent s).notices =
      if irl (rxPollEvent s) = irl s then s.notices else s.notices ++ [irl (rxPollEvent s)] := by
  rw [rxPollEvent_eq]
  cases hostBytes 1 s with
  | nil => exact (if_pos rfl).symm
  | cons b bs => rfl

end

section
variable {s : State}

theorem exec_evUartRxPoll (h : s.cfg.uartMode = .shift) :
    exec .evUartRxPoll s = .next (respond .done (rxPollEvent s)) := by
  simp only [exec, execEvUartRxPoll, h, rxPollEvent_dequeue]
  rfl

theorem rxPollEvent_of_byte {b : Byte} {bs : List Byte} (h : hostBytes 1 s = b :: bs) :
    (rxPollEvent s).shift =
        { s.shift with rxData := b, dr := true, ov := s.shift.ov || s.shift.dr } ∧
      (rxPollEvent s).ic = raisedIc s.cfg.irqUart s.ic := by
  rw [rxPollEvent_eq, h]
  exact ⟨rfl, rfl⟩

theorem rxPollEvent_of_nothing (h : hostBytes 1 s = []) :
    (rxPollEvent s).shift = s.shift ∧ (rxPollEvent s).ic = s.ic := by
  rw [rxPollEvent_eq, h]
  exact ⟨rfl, rfl⟩

end

/-- Settles O50: by whether the host read gives a byte; the new entry is the same. -/
theorem shiftReceivePolls : Obligations.ShiftReceivePolls := by
  intro s hm
  obtain ⟨hanswers, hreads⟩ := rxPollEvent_hostIn s
  have hsched : (respond .done (rxPollEvent s)).sched = _ := rxPollEvent_sched s
  refine ⟨_, exec_evUartRxPoll hm, rfl, ?_⟩
  rw [hsched]
  exact ⟨rfl, rfl, fun src hsrc => slot_put_other _ _ hsrc,
    fun _ => rxPollEvent_of_byte, rxPollEvent_of_nothing, hanswers, hreads,
    rxPollEvent_notices s,
    (unchangedBut_respond .done (unchangedBut_rxPollEvent s)).mono (by simp)⟩

/-! ## Shift-mode reads -/

/-- A shift-mode data read answers the last received byte and clears two flags (R138). -/
theorem exec_readUartData_shift {s : State} (h : s.cfg.uartMode = .shift) :
    exec .readUartData s =
      .next (respond (.value .word ((byteWord (free s 24 0) s.shift.rxData).setWidth 64)
        s.cfg.wsApbR) (drew 1 (s.setShift { s.shift with dr := false, ov := false }))) := by
  simp only [exec, execReadUartData, h]
  rfl

theorem exec_readUartStatus_shift {s : State} (h : s.cfg.uartMode = .shift) :
    exec .readUartStatus s =
      .next (respond (.value .word ((shiftStatus s.cfg s.shift (free s 32 0)).setWidth 64)
        s.cfg.wsApbR) (drew 1 s)) := by
  simp only [exec, execReadUartStatus, h]
  rfl

/-- Settles O51: the data read changes the flags it clears, the status read only answers. -/
theorem shiftReads : Obligations.ShiftReads := by
  intro s hm
  refine ⟨⟨_, _, exec_readUartData_shift hm, rfl, extractLsb'_byteWord _ _, rfl, ?_⟩, fun ha => ?_⟩
  · exact unchangedBut_respond _ ((unchangedBut_setShift s _).trans (unchangedBut_drew 1 _))
  · obtain ⟨hdr, hts, hth, hov⟩ := getLsbD_shiftStatus ha s.shift (free s 32 0)
    exact ⟨_, _, exec_readUartStatus_shift hm, rfl, hdr, hts, hth, hov,
      unchangedBut_respond _ (unchangedBut_drew 1 s)⟩

/-! ## Two bytes in a row -/

/-- Settles O52: the writes fill the shift and the hold register, and each event empties one. -/
theorem transmitOrder : Obligations.TransmitOrder := by
  intro x y s s1 s2 s3 s4 hm hts hth hout h1 h2 h3 h4
  obtain ⟨t1, e1, -, hfree, -, hf1⟩ := shiftDataWrites x s hm
  cases e1.symm.trans h1
  obtain ⟨hshift1, -⟩ := hfree hts
  have hm1 := (hf1.uartMode (by decide)).trans hm
  obtain ⟨t2, e2, -, -, hbusy, hf2⟩ := shiftDataWrites y s1 hm1
  cases e2.symm.trans h2
  obtain ⟨hshift2, -⟩ := hbusy (by rw [hshift1])
  have hm2 := (hf2.uartMode (by decide)).trans hm1
  obtain ⟨t3, e3, -, hhost3, hheld, -, -, -, -, hf3⟩ := shiftTransmitEvents s2 hm2
  cases e3.symm.trans h3
  obtain ⟨hshift3, hslot3, -⟩ := hheld (by rw [hshift2])
  have hm3 := (hf3.uartMode (by decide)).trans hm2
  obtain ⟨t4, e4, -, hhost4, -, hlast, -⟩ := shiftTransmitEvents s3 hm3
  cases e4.symm.trans h4
  obtain ⟨hshift4, hslot4, -⟩ := hlast (by rw [hshift3])
  have hhost2 : s2.host = s.host := (hf2 .host (by decide)).trans (hf1 .host (by decide))
  rw [hhost2, if_pos hout, hshift2, hshift1] at hhost3
  rw [hhost3, if_pos hout, hshift3, hshift2] at hhost4
  refine ⟨?_, ?_, hslot4, ?_, ?_⟩
  · rw [hhost4]
    exact List.append_assoc _ _ _
  · exact congrArg Option.isSome hslot3
  · rw [hshift4]
  · rw [hshift4, hshift3]

end Sys2Proof.Machine
end

section
/-! PROOFS. The scheduler (45_host_and_lifecycle.md R143 to R145): the step's hand-over to the CPU's
operation and to the scheduler, the scheduler's moves, and that ADVANCE ends and fires every due
entry. -/

namespace Sys2Proof.Machine

/-! ## The step's hand-over -/

/-- With no wait in progress, the operation the CPU's request decodes to runs without the request in
the inbox (R144). -/
theorem step_cpu_decoded {s : State} {r : Request} {rest : List Move} {i : Instr}
    (ha : s.cfg.admitted = true) (hw : s.waiting = false) (hi : s.inbox = .cpu r :: rest)
    (hd : decode s.cfg r = .ok i) : step s = exec i (s.setInbox rest) := by
  simp [step, ha, hw, hi, hd]

/-- Settles O7: the request is decoded after the configuration and the wait are looked at. -/
theorem stepRunsDecodedOperation : Obligations.StepRunsDecodedOperation :=
  fun _ _ _ _ => step_cpu_decoded

/-- With no wait in progress the scheduler moves when its move stands first in the inbox, and when the
inbox is empty (log entry 2). -/
theorem step_scheduler {s s0 : State} (ha : s.cfg.admitted = true) (hw : s.waiting = false)
    (hi : (s.inbox = [] ∧ s0 = s) ∨
      ∃ rest, s.inbox = .scheduler :: rest ∧ s0 = s.setInbox rest) :
    step s = schedulerMove s0 ∧ s0.sched = s.sched := by
  rcases hi with ⟨hempty, rfl⟩ | ⟨rest, hplaced, rfl⟩
  · exact ⟨by simp [step, schedulerTurn, ha, hw, hempty], rfl⟩
  · exact ⟨by simp [step, schedulerTurn, ha, hw, hplaced], rfl⟩

/-! ## The earliest entry -/

/-- No entry precedes the earliest one by due time, nor by schedule order at one due time. -/
theorem earliest_first {q : Queue} {src src' : Source} {e e' : Slot}
    (h : q.earliest = some (src, e)) (he' : q.slot src' = some e') :
    e.due < e'.due ∨ (e.due = e'.due ∧ e.seq ≤ e'.seq) := by
  have hq := earliest_spec q
  rw [h] at hq
  exact hq.2 src' (by cases src' <;> simp) e' he'

theorem earliest_eq_none_iff (q : Queue) : q.earliest = none ↔ ∀ src, q.slot src = none := by
  refine ⟨slot_of_earliest_none, fun hnone => ?_⟩
  rw [Option.eq_none_iff_forall_ne_some]
  rintro ⟨src, e⟩ he
  exact absurd (slot_of_earliest he) (by simp [hnone src])

/-- Settles O9: `earliest_spec` says that looking at one source after another keeps the first entry. -/
theorem earliestEntryFirst : Obligations.EarliestEntryFirst := fun q =>
  ⟨fun _ _ h => ⟨slot_of_earliest h, fun _ _ => earliest_first h⟩, earliest_eq_none_iff q⟩

/-- Either the queue is empty, or its earliest entry is a pending one. -/
theorem earliest_cases (q : Queue) :
    q.earliest = none ∨ ∃ src e, q.earliest = some (src, e) ∧ q.slot src = some e := by
  cases h : q.earliest with
  | none => exact .inl rfl
  | some p => exact .inr ⟨p.1, p.2, rfl, slot_of_earliest h⟩

/-- An earliest entry due after `T` leaves no entry due by `T`. -/
theorem due_after_of_earliest {q : Queue} {T : Nat}
    (h : q.earliest = none ∨ ∃ src e, q.earliest = some (src, e) ∧ T < e.due) {src' : Source}
    {e' : Slot} (he' : q.slot src' = some e') : T < e'.due := by
  rcases h with hnone | ⟨src, e, he, hlt⟩
  · exact absurd (slot_of_earliest_none hnone src') (by simp [he'])
  · exact hlt.trans_le (earliest_due_le he he')

/-! ## The scheduler's moves -/

section
variable {s : State}

/-- The entry that is due now fires (R143, R144). -/
theorem schedulerMove_of_due {src : Source} {e : Slot}
    (he : s.sched.queue.earliest = some (src, e)) (hdue : e.due = s.sched.now) :
    schedulerMove s = .next (performEvent src (dequeue src s)) := by
  rw [schedulerMove, he]
  simp only [hdue, if_true, fire]
  rfl

/-- With every entry due later one tick passes (R144). -/
theorem schedulerMove_of_later
    (hlater : ∀ src e, s.sched.queue.slot src = some e → s.sched.now < e.due) :
    schedulerMove s = .next (setNow (s.sched.now + 1) s) := by
  rcases earliest_cases s.sched.queue with hnone | ⟨src, e, he, hslot⟩
  · simp only [schedulerMove, hnone]
  · have hlt := hlater src e hslot
    simp only [schedulerMove, he, if_neg hlt.ne', if_neg hlt.not_gt]

/-- An overdue entry makes the earliest one overdue, and the machine stops (log entry 15). -/
theorem schedulerMove_of_overdue {src : Source} {e : Slot}
    (hslot : s.sched.queue.slot src = some e) (hlt : e.due < s.sched.now) :
    schedulerMove s = .fault .overdueEntry := by
  rcases earliest_cases s.sched.queue with hnone | ⟨first, e', he', -⟩
  · exact absurd (slot_of_earliest_none hnone src) (by simp [hslot])
  · have hfirst : e'.due < s.sched.now := (earliest_due_le he' hslot).trans_lt hlt
    simp only [schedulerMove, he', if_neg hfirst.ne, if_pos hfirst]

end

/-- Settles O10: the step hands over to the scheduler's move, which looks at the earliest entry. -/
theorem schedulerMoves : Obligations.SchedulerMoves := by
  intro s s0 ha hw hi
  obtain ⟨hstep, hsched⟩ := step_scheduler ha hw hi
  rw [hstep, ← hsched]
  exact ⟨fun _ _ => schedulerMove_of_due, schedulerMove_of_later,
    fun ⟨_, _, hslot, hlt⟩ => schedulerMove_of_overdue hslot hlt⟩

/-! ## ADVANCE -/

theorem unchangedBut_setNow (t : Nat) (s : State) : UnchangedBut [.time] s (setNow t s) := by
  intro p hp
  cases p with
  | time => exact absurd (List.mem_singleton_self _) hp
  | romBytes | ramBytes => exact fun _ => rfl
  | queue | hostIn => exact ⟨rfl, rfl⟩
  | _ => rfl

/-- What ADVANCE may change, the answer apart: the time and what event rules change. -/
def advanceParts : List Part :=
  [.time, .queue, .pre, .t1, .t2, .buf, .shift, .ic, .notices, .host, .hostIn]

theorem unchangedBut_performEvent (src : Source) (s : State) :
    UnchangedBut advanceParts s (performEvent src s) := by
  cases src with
  | prescaler => exact (unchangedBut_prescalerEvent s).mono (by decide)
  | uartTx => exact (unchangedBut_txEvent s).mono (by decide)
  | uartRxPoll => exact (unchangedBut_rxPollEvent s).mono (by decide)
  | uartFlush =>
    exact ((unchangedBut_flushOutput s).trans (unchangedBut_schedule _ _ _)).mono (by decide)

theorem unchangedBut_fire (src : Source) (due : Nat) (s : State) :
    UnchangedBut advanceParts s (fire src due s) :=
  (((unchangedBut_setNow due s).trans (unchangedBut_dequeue _ src)).trans
    (unchangedBut_performEvent src _)).mono (by decide)

@[simp] theorem fire_cfg (src : Source) (due : Nat) (s : State) : (fire src due s).cfg = s.cfg :=
  (fire_frame src due s).cfg

theorem advanceFuel_pos (T : Nat) (q : Queue) : 0 < advanceFuel T q := Nat.succ_pos _

/-- The fuel of ADVANCE reaches in an admitted configuration: every firing lowers it (log entry 14). -/
theorem advanceTo_ends {T fuel : Nat} {s : State} (ha : s.cfg.admitted = true)
    (hfuel : advanceFuel T s.sched.queue ≤ fuel) : ∃ t, advanceTo fuel T s = some t := by
  induction fuel generalizing s with
  | zero => exact absurd (advanceFuel_pos T s.sched.queue) hfuel.not_gt
  | succ fuel ih =>
    rcases earliest_cases s.sched.queue with hnone | ⟨src, e, he, hslot⟩
    · exact ⟨setNow T s, by simp only [advanceTo, hnone]⟩
    · simp only [advanceTo, he]
      split
      · rename_i hdue
        have hlower := advanceFuel_fire ha hslot hdue
        exact ih (by rwa [fire_cfg]) (by omega)
      · exact ⟨_, rfl⟩

/-- In an admitted configuration ADVANCE answers what firing every entry due by `now + n` leads to,
for its own fuel and for any less that reaches. -/
theorem exec_advance_of_advanceTo {n fuel : Nat} {s t : State}
    (hfuel : fuel ≤ advanceFuel (s.sched.now + n) s.sched.queue)
    (h : advanceTo fuel (s.sched.now + n) s = some t) :
    exec (.advance n) s = .next (respond .done t) := by
  simp only [exec, execAdvance, advanceTo_fuel hfuel h]
  rfl

theorem advanceTo_of_due {fuel T : Nat} {s : State} {src : Source} {e : Slot}
    (he : s.sched.queue.earliest = some (src, e)) (hdue : e.due ≤ T) :
    advanceTo (fuel + 1) T s = advanceTo fuel T (fire src e.due s) := by
  simp only [advanceTo, he, if_pos hdue]

/-- With no entry due by `T` only the time changes (R145). -/
theorem advanceTo_of_later {fuel T : Nat} {s : State}
    (hlater : ∀ src e, s.sched.queue.slot src = some e → T < e.due) :
    advanceTo (fuel + 1) T s = some (setNow T s) := by
  rcases earliest_cases s.sched.queue with hnone | ⟨src, e, he, hslot⟩
  · simp only [advanceTo, hnone]
  · simp only [advanceTo, he, if_neg (hlater src e hslot).not_ge]

theorem exec_advance_of_later {n : Nat} {s : State}
    (hlater : ∀ src e, s.sched.queue.slot src = some e → s.sched.now + n < e.due) :
    exec (.advance n) s = .next (respond .done (setNow (s.sched.now + n) s)) :=
  exec_advance_of_advanceTo (fuel := 1) (advanceFuel_pos _ _) (advanceTo_of_later hlater)

/-- ADVANCE fires the earliest entry that is due, and goes on with the ticks that remain (R145). -/
theorem exec_advance_of_due {n : Nat} {s : State} {src : Source} {e : Slot}
    (ha : s.cfg.admitted = true) (he : s.sched.queue.earliest = some (src, e))
    (hdue : e.due ≤ s.sched.now + n) :
    exec (.advance n) s = exec (.advance (s.sched.now + n - e.due)) (fire src e.due s) := by
  have hend : (fire src e.due s).sched.now + (s.sched.now + n - e.due) = s.sched.now + n := by
    rw [fire_now]
    exact Nat.add_sub_cancel' hdue
  obtain ⟨t, ht⟩ := advanceTo_ends (T := s.sched.now + n) (s := fire src e.due s)
    (by rwa [fire_cfg]) le_rfl
  have hlower := advanceFuel_fire ha (slot_of_earliest he) hdue
  rw [exec_advance_of_advanceTo hlower ((advanceTo_of_due he hdue).trans ht),
    exec_advance_of_advanceTo (s := fire src e.due s) (by rw [hend]) (by rwa [hend])]

/-- ADVANCE ends with no entry due by then, and changes nothing but the time and what event rules
change. -/
theorem exec_advance_ends (n : Nat) {s : State} (ha : s.cfg.admitted = true) :
    ∃ u, exec (.advance n) s = .next (respond .done (setNow (s.sched.now + n) u)) ∧
      UnchangedBut advanceParts s u ∧
      ∀ src e, u.sched.queue.slot src = some e → s.sched.now + n < e.due := by
  obtain ⟨t, ht⟩ := advanceTo_ends (T := s.sched.now + n) ha le_rfl
  obtain ⟨u, hu, rfl, hend⟩ := advanceTo_induct (P := UnchangedBut advanceParts s)
    (fun v src e hv _ _ => (hv.trans (unchangedBut_fire src e.due v)).mono (by decide))
    _ s t (unchangedBut_refl _ s) ht
  exact ⟨u, exec_advance_of_advanceTo le_rfl ht, hu, fun _ _ => due_after_of_earliest hend⟩

/-- Settles O58: the fuel reaches because every delay is at least one tick, so a firing and the rest
of the way make up the whole. -/
theorem advanceFiresAllDueEntries : Obligations.AdvanceFiresAllDueEntries := by
  intro n s ha
  refine ⟨fun src e he _ hdue => exec_advance_of_due ha he hdue, ?_⟩
  obtain ⟨u, hexec, hu, hlater⟩ := exec_advance_ends n ha
  refine ⟨_, hexec, rfl, rfl, hlater, fun hnone => ?_, ?_⟩
  · have hsame := Host.Outcome.next.inj (hexec.symm.trans (exec_advance_of_later hnone))
    rw [hsame]
    exact unchangedBut_respond .done (unchangedBut_setNow _ s)
  · exact (unchangedBut_respond .done (hu.trans (unchangedBut_setNow _ u))).mono (by decide)

end Sys2Proof.Machine
end

section
/-! PROOFS. The host's streams and the lifecycle calls (45_host_and_lifecycle.md R146 to R152;
70_reset_and_hazards.md R171, R172): what a host read returns, and what HALT, SHUTDOWN, reset and INIT
leave. -/

namespace Sys2Proof.Machine

/-! ## Host reads -/

section
variable {s : State}

theorem hostListens_eq_true_iff :
    hostListens s = true ↔ s.host.kind ≠ .disabled ∧ s.host.inOpen = true := by
  simp [hostListens]

/-- A closed or a disabled input gives nothing and keeps what was placed (R147). -/
theorem hostRead_of_not_listening (n : Nat) (h : hostListens s ≠ true) :
    hostBytes n s = [] ∧ hostAfterRead n s = s := ⟨if_neg h, if_neg h⟩

/-- A placed answer is read up to the length asked for, and its rest stays in front of the others
(R147, log entry 6). -/
theorem hostRead_of_placed (n : Nat) (h : hostListens s = true) {a : List Byte}
    {rest : List (List Byte)} (hplaced : s.answers = a :: rest) :
    hostBytes n s = a.take n ∧
      (hostAfterRead n s).answers = if a.drop n = [] then rest else a.drop n :: rest := by
  simp only [hostBytes, hostAfterRead, h, if_true, hplaced, setAnswers_answers, and_self]

end

/-- Settles O43: by whether the input listens, and then by the first placed answer. -/
theorem hostReadsAreBounded : Obligations.HostReadsAreBounded := by
  intro n s
  refine ⟨hostBytes_length n s, fun hdeaf => ?_, fun a rest hkind hopen hplaced => ?_⟩
  · refine hostRead_of_not_listening n fun h => ?_
    obtain ⟨hkind, hopen⟩ := hostListens_eq_true_iff.mp h
    rcases hdeaf with hdisabled | hclosed
    · exact hkind hdisabled
    · exact absurd hopen (by simp [hclosed])
  · obtain ⟨hbytes, hanswers⟩ :=
      hostRead_of_placed n (hostListens_eq_true_iff.mpr ⟨hkind, hopen⟩) hplaced
    refine ⟨hbytes, ?_⟩
    rw [hanswers]
    split
    · rename_i hnil
      rw [hnil, List.nil_append]
    · rfl

/-! ## Frames -/

theorem unchangedBut_setHost (h : HostPort) (s : State) : UnchangedBut [.host] s (s.setHost h) := by
  intro p hp
  cases p with
  | host => exact absurd (List.mem_singleton_self _) hp
  | romBytes | ramBytes => exact fun _ => rfl
  | queue | hostIn => exact ⟨rfl, rfl⟩
  | _ => rfl

theorem unchangedBut_setPhase (x : Phase) (s : State) :
    UnchangedBut [.phase] s (s.setPhase x) := by
  intro p hp
  cases p with
  | phase => exact absurd (List.mem_singleton_self _) hp
  | romBytes | ramBytes => exact fun _ => rfl
  | queue | hostIn => exact ⟨rfl, rfl⟩
  | _ => rfl

/-! ## HALT and SHUTDOWN -/

section
variable {s : State}

theorem exec_halt (s : State) : exec .halt s = .next (respond .done (haltCore s)) := rfl

theorem haltCore_of_buffered (h : s.cfg.uartMode = .buffered) : haltCore s = flushOutput s := by
  simp only [haltCore, h]

theorem haltCore_of_shift (h : s.cfg.uartMode = .shift) : haltCore s = s := by
  simp only [haltCore, h]

theorem unchangedBut_haltCore (s : State) : UnchangedBut [.buf, .host] s (haltCore s) := by
  cases hm : s.cfg.uartMode with
  | buffered =>
    rw [haltCore_of_buffered hm]
    exact (unchangedBut_flushOutput s).mono (by decide)
  | shift =>
    rw [haltCore_of_shift hm]
    exact unchangedBut_refl _ s

/-- A flush empties the output buffer into the host, where the output is open (R148, R151). -/
theorem haltCore_buf_host_of_buffered (h : s.cfg.uartMode = .buffered) :
    (haltCore s).buf = { s.buf with outbuf := [] } ∧
      (haltCore s).host = { s.host with emitted := emittedAfter s.buf.outbuf s.host } := by
  rw [haltCore_of_buffered h, flushOutput_eq]
  exact ⟨rfl, rfl⟩

theorem haltCore_buf_host_of_shift (h : s.cfg.uartMode = .shift) :
    (haltCore s).buf = s.buf ∧ (haltCore s).host = s.host := by
  rw [haltCore_of_shift h]
  exact ⟨rfl, rfl⟩

theorem haltCore_host_kind (s : State) : (haltCore s).host.kind = s.host.kind := by
  cases hm : s.cfg.uartMode with
  | buffered => rw [(haltCore_buf_host_of_buffered hm).2]
  | shift => rw [(haltCore_buf_host_of_shift hm).2]

theorem exec_shutdown_of_closed (h : s.phase = .closed) :
    exec .shutdown s = .next (respond .done s) := if_pos h

theorem exec_shutdown_of_not_closed (h : s.phase ≠ .closed) :
    exec .shutdown s = .next (respond .done (shutdownCore s)) := if_neg h

theorem unchangedBut_shutdownCore (s : State) :
    UnchangedBut [.buf, .host, .phase] s (shutdownCore s) :=
  (((unchangedBut_haltCore s).trans (unchangedBut_setHost _ _)).trans
    (unchangedBut_setPhase _ _)).mono (by decide)

end

/-- HALT flushes in buffered mode and only answers in shift mode (R151). -/
theorem exec_halt_spec (s : State) :
    ∃ t, exec .halt s = .next t ∧ t.response = .done ∧
      (s.cfg.uartMode = .shift → UnchangedBut [.response] s t) ∧
      (s.cfg.uartMode = .buffered →
        t.buf = { s.buf with outbuf := [] } ∧
        t.host =
          if s.host.outOpen then { s.host with emitted := s.host.emitted ++ s.buf.outbuf }
          else s.host) ∧
      UnchangedBut [.response, .buf, .host] s t := by
  refine ⟨_, exec_halt s, rfl, fun hm => ?_, fun hm => ?_,
    unchangedBut_respond .done (unchangedBut_haltCore s)⟩
  · rw [haltCore_of_shift hm]
    exact unchangedBut_answer .done s
  · rw [haltCore_of_buffered hm]
    exact ⟨rfl, hostWrite_host s.buf.outbuf s⟩

/-- Settles O57: SHUTDOWN is HALT, then both streams and the phase closed; by whether it was closed
before. -/
theorem haltAndShutdown : Obligations.HaltAndShutdown := by
  intro s
  refine ⟨exec_halt_spec s, ?_⟩
  by_cases hp : s.phase = .closed
  · exact ⟨_, exec_shutdown_of_closed hp, rfl, hp, fun _ => unchangedBut_answer .done s,
      fun hne => absurd hp hne, (unchangedBut_answer .done s).mono (by decide)⟩
  · refine ⟨_, exec_shutdown_of_not_closed hp, rfl, rfl, fun h => absurd h hp,
      fun _ => ⟨rfl, rfl, rfl, haltCore_host_kind s, fun hm => ?_, fun hm => ?_⟩,
      unchangedBut_respond .done (unchangedBut_shutdownCore s)⟩
    · obtain ⟨hbuf, hhost⟩ := haltCore_buf_host_of_shift hm
      exact ⟨hbuf, (congrArg HostPort.emitted hhost :)⟩
    · obtain ⟨hbuf, hhost⟩ := haltCore_buf_host_of_buffered hm
      exact ⟨hbuf, (congrArg HostPort.emitted hhost :)⟩

/-! ## Reset -/

/-- Reset touches neither the phase nor anything of the CPU's side and of the host's input. -/
theorem resetCore_outside (s : State) :
    (resetCore s).phase = s.phase ∧ (resetCore s).waiting = s.waiting ∧
    (resetCore s).response = s.response ∧ (resetCore s).inbox = s.inbox ∧
    (resetCore s).answers = s.answers ∧ (resetCore s).hostReads = s.hostReads := by
  cases hm : s.cfg.uartMode with
  | buffered =>
    rw [resetCore_buffered s hm]
    exact ⟨rfl, rfl, rfl, rfl, rfl, rfl⟩
  | shift =>
    rw [resetCore_shift s hm]
    exact ⟨rfl, rfl, rfl, rfl, rfl, rfl⟩

/-- What reset may change (R171). -/
def resetParts : List Part :=
  [.ic, .notices, .t1, .t2, .pre, .ccr, .queue, .buf, .shift, .host, .draws]

theorem unchangedBut_resetCore (s : State) : UnchangedBut resetParts s (resetCore s) := by
  obtain ⟨hcfg, hrom, hram, -⟩ := resetCore_frame s
  obtain ⟨hphase, hwaiting, hresponse, hinbox, hanswers, hreads⟩ := resetCore_outside s
  intro p hp
  cases p with
  | cfg => exact hcfg
  | romBytes => exact fun i => by simp only [byteAt, array, hrom]
  | ramBytes => exact fun i => by simp only [byteAt, array, hram]
  | time => exact resetCore_now s
  | phase => exact hphase
  | waiting => exact hwaiting
  | response => exact hresponse
  | inbox => exact hinbox
  | hostIn => exact ⟨hanswers, hreads⟩
  | _ => exact absurd hp (by decide)

/-- What reset leaves in either UART mode, the frame apart (R171, R172). -/
structure ResetLeaves (s t : State) : Prop where
  ic : t.ic = ⟨0, 0, 0⟩
  t1 : t.t1.en = false ∧ t.t1.rl = false
  t2 : t.t2.en = false ∧ t.t2.rl = false
  loadedAt : t.pre.loadedAt = s.sched.now
  prescaler : t.sched.queue.prescaler =
    some ⟨s.sched.now + (t.pre.scaler.toNat + 1), s.sched.nextSeq⟩
  uartTx : t.sched.queue.uartTx = none
  nextSeq : t.sched.nextSeq = s.sched.nextSeq + 2
  host : t.host = { s.host with emitted := t.host.emitted }

theorem resetCore_leaves (s : State) : ResetLeaves s (resetCore s) := by
  cases hm : s.cfg.uartMode with
  | buffered =>
    rw [resetCore_buffered s hm]
    exact ⟨rfl, ⟨rfl, rfl⟩, ⟨rfl, rfl⟩, rfl, rfl, rfl, rfl, rfl⟩
  | shift =>
    rw [resetCore_shift s hm]
    exact ⟨rfl, ⟨rfl, rfl⟩, ⟨rfl, rfl⟩, rfl, rfl, rfl, rfl, rfl⟩

section
variable {s : State}

/-- Reset empties the buffered UART and schedules its first flush; unflushed output is emitted or lost
(R171). -/
theorem resetCore_uart_of_buffered (h : s.cfg.uartMode = .buffered) :
    (resetCore s).buf = ⟨[], 0, 0, []⟩ ∧ (resetCore s).shift = s.shift ∧
    (resetCore s).sched.queue.uartFlush =
      some ⟨s.sched.now + s.cfg.flushInterval, s.sched.nextSeq + 1⟩ ∧
    (resetCore s).sched.queue.uartRxPoll = none ∧
    ((resetCore s).host.emitted = s.host.emitted ∨
      (s.host.outOpen = true ∧
        (resetCore s).host.emitted = s.host.emitted ++ s.buf.outbuf)) := by
  rw [resetCore_buffered s h]
  refine ⟨rfl, rfl, rfl, rfl, ?_⟩
  cases hopen : s.host.outOpen with
  | false => exact .inl (by simp [emittedAfter, hopen])
  | true =>
    cases freeBit s 6 with
    | false => exact .inl rfl
    | true => exact .inr ⟨rfl, if_pos hopen⟩

/-- Reset idles the shift-mode UART's line and schedules its first poll (R171). -/
theorem resetCore_uart_of_shift (h : s.cfg.uartMode = .shift) :
    (resetCore s).shift.dr = false ∧ (resetCore s).shift.ts = true ∧
    (resetCore s).shift.th = true ∧ (resetCore s).shift.ov = false ∧
    (resetCore s).buf = s.buf ∧ (resetCore s).host.emitted = s.host.emitted ∧
    (resetCore s).sched.queue.uartRxPoll =
      some ⟨s.sched.now + s.cfg.rxPollInterval, s.sched.nextSeq + 1⟩ ∧
    (resetCore s).sched.queue.uartFlush = none := by
  rw [resetCore_shift s h]
  exact ⟨rfl, rfl, rfl, rfl, rfl, rfl, rfl, rfl⟩

end

/-! ## INIT -/

/-- The state with the host bound, which INIT then resets (R149, R150; log entry 17). -/
def boundState (s : State) : State :=
  drew 3 (s.setHost (bindHost s.cfg.hostKind (freeBit s 0) (freeBit s 1) (freeBit s 2) s.host))

/-- Which streams are open and whether terminal settings changed, by the kind of the binding and by
what failed (R146, R149; log entry 17). -/
theorem boundState_host (s : State) :
    (s.cfg.hostKind = .disabled → (boundState s).host.inOpen = false) ∧
    (s.cfg.hostKind ≠ .disabled → (boundState s).host.inOpen = !freeBit s 0) ∧
    (boundState s).host.outOpen = !freeBit s 1 ∧
    ((boundState s).host.rawSet = true →
      (boundState s).host.inOpen = true ∧
        (s.cfg.hostKind = .terminal ∨ s.cfg.hostKind = .stdio)) ∧
    (s.cfg.hostKind = .terminal → (boundState s).host.rawSet = (boundState s).host.inOpen) ∧
    (s.cfg.hostKind = .stdio →
      (boundState s).host.rawSet = ((boundState s).host.inOpen && freeBit s 2)) := by
  simp only [boundState, drew, setDraws_host, setHost_host, bindHost, true_and]
  refine ⟨fun h => ?_, fun h => ?_, fun h => ?_, fun h => ?_, fun h => ?_⟩
  · rw [h]
    rfl
  · rw [bne_iff_ne.mpr h, Bool.true_and]
  · simp only [Bool.and_eq_true, Bool.or_eq_true, beq_iff_eq] at h ⊢
    exact ⟨h.1, h.2.imp_right And.left⟩
  · simp [h]
  · rw [h]
    rfl

theorem exec_init_of_uninit {s : State} (h : s.phase = .uninit) :
    exec .init s = .next (respond .done ((resetCore (boundState s)).setPhase .ready)) := if_pos h

theorem exec_init_of_not_uninit {s : State} (h : s.phase ≠ .uninit) :
    exec .init s = .fault .protocolMisuse := if_neg h

theorem unchangedBut_init (s : State) :
    UnchangedBut (.host :: .draws :: .phase :: resetParts) s
      ((resetCore (boundState s)).setPhase .ready) :=
  ((((unchangedBut_setHost _ s).trans (unchangedBut_drew 3 _)).trans
    (unchangedBut_resetCore (boundState s))).trans (unchangedBut_setPhase _ _)).mono (by decide)

/-- Settles O55: INIT binds the host, and reset, which only adds to what was emitted, keeps the
binding. -/
theorem initBindsAndResets : Obligations.InitBindsAndResets := by
  intro s
  refine ⟨exec_init_of_not_uninit, fun hp => ?_⟩
  obtain ⟨hic, ⟨hen1, hrl1⟩, ⟨hen2, hrl2⟩, hloaded, hprescaler, htx, hseq, hhost⟩ :=
    resetCore_leaves (boundState s)
  obtain ⟨hdisabled, hin, hout, hraw, hterminal, hstdio⟩ := boundState_host s
  refine ⟨_, exec_init_of_uninit hp, rfl, rfl, ?_⟩
  simp only [respond, setResponse_host, setPhase_host]
  rw [hhost]
  refine ⟨rfl, hdisabled, hin, hout, hraw, hterminal, hstdio, hic, ?irl, hen1, hrl1, hen2, hrl2,
    hloaded, hprescaler, htx, hseq, fun hm => ?buffered,
    resetCore_uart_of_shift (s := boundState s), ?frame⟩
  case irl =>
    rw [irl, setResponse_ic, setPhase_ic, hic]
    rfl
  case buffered =>
    obtain ⟨hbuf, hshift, hflush, hpoll, hemitted⟩ :=
      resetCore_uart_of_buffered (s := boundState s) hm
    rw [setResponse_buf, setPhase_buf, hbuf]
    exact ⟨rfl, rfl, rfl, hshift, hflush, hpoll, hemitted⟩
  case frame => exact (unchangedBut_respond .done (unchangedBut_init s)).mono (by decide)

end Sys2Proof.Machine
end

section
/-! PROOFS. Exceptional answers (60_exceptions.md R154): which operations end in a BusException, with
which answer, and that no other operation answers one. -/

namespace Sys2Proof.Machine

/-! ## The table -/

/-- The answer is a BusException, of a data access or of a fetch. -/
def Response.isException : Response → Bool
  | .exception _ _ | .fetchException _ => true
  | _ => false

/-- R154's table: the BusException in which an operation ends, if it ends in one. -/
def exceptionOf (c : Config) : Instr → Option Response
  | .readUnmapped _ _ | .writeUnmapped _ _ _ => some (.exception .unmapped c.memExWs)
  | .readApbB _ | .readApbH _ | .readApbD _ | .writeApbB _ _ | .writeApbH _ _ | .writeApbD _ _ =>
    some (.exception .badWidth c.memExWs)
  | .writeRom _ _ _ => if c.romWritable then none else some (.exception .readOnly c.memExWs)
  | .ifetchOther _ => some (.fetchException .unmapped)
  | _ => none

section
variable {c : Config} {i : Instr}

theorem ws_of_exceptionOf {cause : Cause} {ws : Nat}
    (h : exceptionOf c i = some (.exception cause ws)) : ws = c.memExWs := by
  revert h
  fun_cases exceptionOf c i <;> simp [eq_comm]

theorem exceptionOf_unmapped_iff :
    (∃ ws, exceptionOf c i = some (.exception .unmapped ws)) ↔
      (∃ w a, i = .readUnmapped w a) ∨ ∃ w a v, i = .writeUnmapped w a v := by
  fun_cases exceptionOf c i <;> simp_all

theorem exceptionOf_badWidth_iff :
    (∃ ws, exceptionOf c i = some (.exception .badWidth ws)) ↔
      (∃ a, i = .readApbB a) ∨ (∃ a, i = .readApbH a) ∨ (∃ a, i = .readApbD a) ∨
      (∃ a v, i = .writeApbB a v) ∨ (∃ a v, i = .writeApbH a v) ∨ ∃ a v, i = .writeApbD a v := by
  fun_cases exceptionOf c i <;> simp_all

theorem exceptionOf_readOnly_iff :
    (∃ ws, exceptionOf c i = some (.exception .readOnly ws)) ↔
      c.romWritable = false ∧ ∃ w a v, i = .writeRom w a v := by
  fun_cases exceptionOf c i <;> simp_all

theorem exceptionOf_fetch_iff {cause : Cause} :
    exceptionOf c i = some (.fetchException cause) ↔
      cause = .unmapped ∧ ∃ a, i = .ifetchOther a := by
  fun_cases exceptionOf c i <;> simp_all [eq_comm (a := Cause.unmapped)]

end

/-! ## The operations of the table -/

/-- An operation of the table answers its BusException and does nothing else. -/
theorem exec_of_exceptionOf {i : Instr} {s : State} {r : Response}
    (h : exceptionOf s.cfg i = some r) : exec i s = .next (respond r s) := by
  cases i with
  | readUnmapped | writeUnmapped | readApbB | readApbH | readApbD | writeApbB | writeApbH | writeApbD
  | ifetchOther =>
    cases h
    rfl
  | writeRom w a v =>
    cases hrom : s.cfg.romWritable with
    | true => simp [exceptionOf, hrom] at h
    | false =>
      rw [exceptionOf, hrom] at h
      cases h
      exact exec_writeRom_readOnly w a v hrom
  | _ => cases h

/-! ## The other operations -/

/-- The outcome is no next state in which a BusException was answered. -/
def AnswersNoException (o : Result) : Prop := ∀ t, o = .next t → t.response.isException = false

section
variable (s : State)

theorem answersNoException_respond {r : Response} (hr : r.isException = false) :
    AnswersNoException (.next (respond r s)) := by
  rintro t ⟨⟩
  exact hr

theorem answersNoException_finish : AnswersNoException (finish s) := answersNoException_respond s rfl

theorem answersNoException_returnWord (v : Word) : AnswersNoException (returnWord v s) :=
  answersNoException_respond s rfl

theorem answersNoException_returnWritten : AnswersNoException (returnWritten s) :=
  answersNoException_respond s rfl

theorem answersNoException_refused (r : Refusal) : AnswersNoException (.refused r) :=
  fun _ h => by cases h

theorem answersNoException_fault (f : Fault) : AnswersNoException (.fault f) :=
  fun _ h => by cases h

theorem answersNoException_ite {p : Prop} [Decidable p] {o o' : Result}
    (h : AnswersNoException o) (h' : AnswersNoException o') :
    AnswersNoException (if p then o else o') := by
  split
  · exact h
  · exact h'

theorem answersNoException_readUartData : AnswersNoException (execReadUartData s) := by
  unfold execReadUartData
  split <;> exact answersNoException_returnWord _ _

theorem answersNoException_writeUartData (v : Word) :
    AnswersNoException (execWriteUartData v s) := by
  unfold execWriteUartData
  split
  · exact answersNoException_returnWritten _
  · exact answersNoException_ite (answersNoException_returnWritten _)
      (answersNoException_returnWritten _)

theorem answersNoException_readUartStatus : AnswersNoException (execReadUartStatus s) := by
  unfold execReadUartStatus
  split <;> exact answersNoException_returnWord _ _

theorem answersNoException_bulkRead (a : Addr) (len : Nat) :
    AnswersNoException (execBulkRead a len s) := by
  unfold execBulkRead
  split
  · exact answersNoException_respond s rfl
  · split <;> exact answersNoException_respond s rfl

theorem answersNoException_bulkWrite (a : Addr) (bs : List Byte) :
    AnswersNoException (execBulkWrite a bs s) := by
  unfold execBulkWrite
  split
  · exact answersNoException_finish s
  · split
    · exact answersNoException_finish _
    · exact answersNoException_respond s rfl

theorem answersNoException_waitTurn : AnswersNoException (waitTurn s) := by
  intro t h
  rcases waitTurn_cases h with ⟨-, rfl⟩ | ⟨src, e, -, -, ⟨-, rfl⟩ | ⟨-, rfl⟩⟩ <;> rfl

theorem answersNoException_advance (n : Nat) : AnswersNoException (execAdvance n s) := by
  unfold execAdvance
  dsimp only
  split
  · exact answersNoException_finish _
  · exact answersNoException_fault _

end

/-- An operation outside the table answers no BusException. -/
theorem exec_answersNoException {i : Instr} {s : State} (h : exceptionOf s.cfg i = none) :
    AnswersNoException (exec i s) := by
  cases i with
  | readUnmapped | writeUnmapped | readApbB | readApbH | readApbD | writeApbB | writeApbH | writeApbD
  | ifetchOther => cases h
  | writeRom w a v =>
    have hrom : s.cfg.romWritable = true := by simpa [exceptionOf] using h
    rw [exec_writeRom_writable w a v hrom]
    exact answersNoException_respond _ rfl
  | readRam | readRom | writeRam | ifetchRam | ifetchRom | irqPoll =>
    exact answersNoException_respond _ rfl
  | writeIrqPending | writePreValue | writeUartStatus | writeApbUnassigned =>
    exact answersNoException_refused _
  | readIrqMask | readIrqPending | readIrqForce | readIrqClear | readPreValue | readPreReload
  | readT1Counter | readT1Reload | readT1Control | readT2Counter | readT2Reload | readT2Control
  | readCcr | readApbUnassigned => exact answersNoException_returnWord _ _
  | writeIrqMask | writeIrqForce | writeIrqClear | writePreReload | writeT1Counter | writeT1Reload
  | writeT1Control | writeT2Counter | writeT2Reload | writeT2Control | writeCcr =>
    exact answersNoException_returnWritten _
  | evPrescaler | bootInit | halt => exact answersNoException_finish _
  | readUartData => exact answersNoException_readUartData s
  | writeUartData v => exact answersNoException_writeUartData s v
  | readUartStatus => exact answersNoException_readUartStatus s
  | irqRaise | irqAck =>
    exact answersNoException_ite (answersNoException_finish _) (answersNoException_refused _)
  | init => exact answersNoException_ite (answersNoException_finish _) (answersNoException_fault _)
  | reset =>
    exact answersNoException_ite (answersNoException_refused _) (answersNoException_finish _)
  | shutdown =>
    exact answersNoException_ite (answersNoException_finish _) (answersNoException_finish _)
  | evUartTx | evUartRxPoll | evUartFlush =>
    simp only [exec, execEvUartTx, execEvUartRxPoll, execEvUartFlush]
    split
    · exact answersNoException_finish _
    · exact answersNoException_refused _
  | bulkRead a len => exact answersNoException_bulkRead s a len
  | bulkWrite a bs => exact answersNoException_bulkWrite s a bs
  | waitForInterrupt => exact answersNoException_waitTurn s
  | advance n => exact answersNoException_advance s n

/-! ## The obligations -/

section
variable {i : Instr} {s t : State} {r : Response}

/-- A BusException is answered by exactly the operations of the table. -/
theorem response_eq_exception_iff (h : exec i s = .next t) (hr : r.isException = true) :
    t.response = r ↔ exceptionOf s.cfg i = some r := by
  cases htable : exceptionOf s.cfg i with
  | none =>
    have hnone := exec_answersNoException htable t h
    refine iff_of_false ?_ nofun
    rintro rfl
    exact absurd hr (by simp [hnone])
  | some r' =>
    cases (exec_of_exceptionOf htable).symm.trans h
    exact Option.some_inj.symm

theorem unchangedBut_of_exception (h : exec i s = .next t) (hr : r.isException = true)
    (ht : t.response = r) : UnchangedBut [.response] s t := by
  cases (exec_of_exceptionOf ((response_eq_exception_iff h hr).mp ht)).symm.trans h
  exact unchangedBut_answer r s

end

/-- Settles O15: an operation that answers a BusException is one of the table, which only answers. -/
theorem busExceptionChangesNothing : Obligations.BusExceptionChangesNothing := by
  intro i s t h
  refine ⟨fun cause ws ht => ⟨?_, unchangedBut_of_exception h rfl ht⟩,
    fun cause ht => unchangedBut_of_exception h rfl ht⟩
  exact ws_of_exceptionOf ((response_eq_exception_iff h rfl).mp ht)

/-- Settles O16: the table, read off cause by cause. -/
theorem busExceptionCauses : Obligations.BusExceptionCauses := by
  intro i s t h
  have htable {cause : Cause} : (∃ ws, t.response = .exception cause ws) ↔
      ∃ ws, exceptionOf s.cfg i = some (.exception cause ws) :=
    exists_congr fun _ => response_eq_exception_iff h rfl
  exact ⟨htable.trans exceptionOf_unmapped_iff, htable.trans exceptionOf_badWidth_iff,
    htable.trans exceptionOf_readOnly_iff,
    fun _ => (response_eq_exception_iff h rfl).trans exceptionOf_fetch_iff⟩

end Sys2Proof.Machine
end

section
/-! PROOFS. The wait for interrupt (60_exceptions.md R170): one turn of it, the steps that make the
turns, and an external device's raise (42_interrupt_controller.md R98). -/

namespace Sys2Proof.Machine

/-! ## Frames -/

theorem unchangedBut_setWaiting (b : Bool) (s : State) :
    UnchangedBut [.waiting] s (s.setWaiting b) := by
  intro p hp
  cases p with
  | waiting => exact absurd (List.mem_singleton_self _) hp
  | romBytes | ramBytes => exact fun _ => rfl
  | queue | hostIn => exact ⟨rfl, rfl⟩
  | _ => rfl

theorem unchangedBut_setInbox (ms : List Move) (s : State) :
    UnchangedBut [.inbox] s (s.setInbox ms) := by
  intro p hp
  cases p with
  | inbox => exact absurd (List.mem_singleton_self _) hp
  | romBytes | ramBytes => exact fun _ => rfl
  | queue | hostIn => exact ⟨rfl, rfl⟩
  | _ => rfl

/-! ## One turn of the wait -/

/-- The state a turn of the wait leaves: with answer `r`, the wait going on or not as `b` says. -/
theorem unchangedBut_turn (r : Response) (b : Bool) (s : State) :
    UnchangedBut [.response, .waiting] s (respond r (s.setWaiting b)) :=
  unchangedBut_respond r (unchangedBut_setWaiting b s)

theorem exec_waitForInterrupt (s : State) : exec .waitForInterrupt s = waitTurn s := rfl

section
variable {s : State}

theorem waitTurn_of_asserted (h : irl s ≠ 0) :
    waitTurn s = .next (respond .done (s.setWaiting false)) := if_neg h

theorem waitTurn_of_no_entry (h : irl s = 0) (hnone : s.sched.queue.earliest = none) :
    waitTurn s = .fault .waitHang := by
  simp only [waitTurn, if_pos h, hnone]

theorem waitTurn_of_entry {src : Source} {e : Slot} (h : irl s = 0)
    (he : s.sched.queue.earliest = some (src, e)) :
    waitTurn s =
      if irl (fire src e.due s) = 0 then
        .next (respond .noResult ((fire src e.due s).setWaiting true))
      else .next (respond .done ((fire src e.due s).setWaiting false)) := by
  simp only [waitTurn, if_pos h, he]
  rfl

end

/-- Settles O59: a turn looks at the level, then at the earliest entry, then at the level that
entry's firing leaves. -/
theorem waitForInterrupt : Obligations.WaitForInterrupt := by
  intro s
  rw [exec_waitForInterrupt]
  refine ⟨fun hirl => ?asserted, fun hirl hnone => ?hang, fun src e hirl he => ?fires⟩
  case asserted => exact ⟨_, waitTurn_of_asserted hirl, rfl, rfl, unchangedBut_turn _ _ s⟩
  case hang => exact waitTurn_of_no_entry hirl ((earliest_eq_none_iff _).mpr hnone)
  case fires =>
    rw [waitTurn_of_entry hirl he]
    by_cases hend : irl (fire src e.due s) = 0
    · rw [if_pos hend]
      exact ⟨_, rfl, iff_of_true rfl hend, nofun, unchangedBut_turn _ _ _⟩
    · rw [if_neg hend]
      exact ⟨_, rfl, iff_of_false nofun hend, fun _ => rfl, unchangedBut_turn _ _ _⟩

/-! ## The steps of a wait -/

section
variable {s : State} {rest : List Move}

theorem step_waiting_cpu {r : Request} (ha : s.cfg.admitted = true) (hw : s.waiting = true)
    (hi : s.inbox = .cpu r :: rest) : step s = waitTurn s := by
  simp only [step, if_pos ha, hi, if_pos hw]

theorem step_waiting_empty (ha : s.cfg.admitted = true) (hw : s.waiting = true)
    (hi : s.inbox = []) : step s = waitTurn s := by
  simp only [step, if_pos ha, hi, schedulerTurn, if_pos hw]

theorem step_waiting_scheduler (ha : s.cfg.admitted = true) (hw : s.waiting = true)
    (hi : s.inbox = .scheduler :: rest) : step s = waitTurn (s.setInbox rest) := by
  simp only [step, if_pos ha, hi, schedulerTurn, setInbox_waiting, hw, if_true]

/-! ## A device's raise -/

theorem step_device {l : Byte} (ha : s.cfg.admitted = true) (hi : s.inbox = .device l :: rest) :
    step s = deviceRaise l (s.setInbox rest) := by
  simp only [step, if_pos ha, hi]

theorem deviceRaise_of_levelOk {l : Byte} (h : levelOk l = true) :
    deviceRaise l s = .next (raise l.toNat s) := if_pos h

theorem deviceRaise_of_not_levelOk {l : Byte} (h : ¬levelOk l = true) :
    deviceRaise l s = .refused .badLevel := if_neg h

end

/-- Settles O60: with a wait in progress the step makes a turn of it for every move but a device's
raise, and a device's raise is let in whether one is in progress or not. -/
theorem waitHaltsIssuance : Obligations.WaitHaltsIssuance := by
  intro s rest ha
  refine ⟨fun hw => ⟨fun r => step_waiting_cpu ha hw, step_waiting_empty ha hw,
    step_waiting_scheduler ha hw⟩, fun l hi => ?_⟩
  rw [step_device ha hi]
  refine ⟨fun h1 h15 => ?_, fun h => deviceRaise_of_not_levelOk (not_levelOk_of_outside h)⟩
  exact ⟨_, deviceRaise_of_levelOk ((levelOk_iff l).mpr ⟨h1, h15⟩), rfl, rfl, rfl, rfl,
    ((unchangedBut_setInbox rest s).trans (unchangedBut_setLatches _ _)).mono (by decide)⟩

end Sys2Proof.Machine
end

section
/-! PROOFS. Who sets a latch bit (60_exceptions.md R159): the levels each event rule and each
operation can raise, and that IRQ_FORCE and IRQ_MASK writes are the only ones to set another latch's bit. -/

namespace Sys2Proof.Machine

/-! ## Sources -/

/-- The levels an event rule can raise (R110, R136, R137); the flush raises none (R133). -/
def Source.raises (c : Config) : Source → Nat → Prop
  | .prescaler => fun b => b = c.irqT1 ∨ b = c.irqT2
  | .uartTx | .uartRxPoll => fun b => b = c.irqUart
  | .uartFlush => fun _ => False

/-- The levels that events can raise. -/
def raisedByEvents (c : Config) (b : Nat) : Prop := ∃ src : Source, src.raises c b

/-- The levels an operation can raise (R159); ADVANCE and a wait fire events of every source. -/
def raisedBy (c : Config) : Instr → Nat → Prop
  | .irqRaise l => fun b => l.toNat = b
  | .readUartData | .writeUartData _ | .readUartStatus => fun b => b = c.irqUart
  | .evPrescaler => Source.raises c .prescaler
  | .evUartTx => Source.raises c .uartTx
  | .evUartRxPoll => Source.raises c .uartRxPoll
  | .waitForInterrupt | .advance _ => raisedByEvents c
  | _ => fun _ => False

/-! ## Latches that grow by given levels only -/

/-- Of the latch bits only pending bits of the levels `P` can be newly set. -/
structure SetsOnly (P : Nat → Prop) (c d : Ic) : Prop where
  pending : ∀ b, d.pending.getLsbD b = true → c.pending.getLsbD b = true ∨ P b
  forced : ∀ b, d.forced.getLsbD b = true → c.forced.getLsbD b = true
  mask : ∀ b, d.mask.getLsbD b = true → c.mask.getLsbD b = true

section
variable {P Q : Nat → Prop} {c d e : Ic}

theorem SetsOnly.refl : SetsOnly P c c := ⟨fun _ => .inl, fun _ => id, fun _ => id⟩

theorem SetsOnly.of_eq (h : d = c) : SetsOnly P c d := h ▸ .refl

theorem SetsOnly.trans (h : SetsOnly P c d) (h' : SetsOnly P d e) : SetsOnly P c e :=
  ⟨fun b hb => (h'.pending b hb).elim (h.pending b) .inr, fun b hb => h.forced b (h'.forced b hb),
    fun b hb => h.mask b (h'.mask b hb)⟩

theorem SetsOnly.mono (h : SetsOnly P c d) (hPQ : ∀ b, P b → Q b) : SetsOnly Q c d :=
  ⟨fun b hb => (h.pending b hb).imp_right (hPQ b), h.forced, h.mask⟩

theorem setsOnly_zero : SetsOnly P c ⟨0, 0, 0⟩ :=
  ⟨fun _ hb => by simp at hb, fun _ hb => by simp at hb, fun _ hb => by simp at hb⟩

theorem setsOnly_raisedIc {l : Nat} (hl : P l) : SetsOnly P c (raisedIc l c) := by
  refine ⟨fun b hb => ?_, fun _ => id, fun _ => id⟩
  simp only [raisedIc, BitVec.getLsbD_or, getLsbD_levelBit, Bool.or_eq_true, Bool.and_eq_true,
    decide_eq_true_eq] at hb
  exact hb.imp_right fun ⟨_, hbl⟩ => hbl ▸ hl

theorem setsOnly_tickedIc {l : Nat} (hl : P l) (ch : Channel) : SetsOnly P c (tickedIc l ch c) := by
  unfold tickedIc
  split
  · exact setsOnly_raisedIc hl
  · exact .refl

theorem setsOnly_acknowledgedIc (l : Nat) : SetsOnly P c (acknowledgedIc l c) := by
  unfold acknowledgedIc
  split
  · exact ⟨fun _ => .inl, fun b hb => by simp_all, fun _ => id⟩
  · exact ⟨fun b hb => .inl (by simp_all), fun _ => id, fun _ => id⟩

/-- An IRQ_CLEAR write clears pending bits (R103). -/
theorem setsOnly_clear (x : Half) : SetsOnly P c { c with pending := c.pending &&& ~~~x } :=
  ⟨fun b hb => .inl (by simp_all), fun _ => id, fun _ => id⟩

end

/-! ## Events -/

/-- An event rule raises levels of its own source only. -/
theorem setsOnly_performEvent (src : Source) (s : State) :
    SetsOnly (src.raises s.cfg) s.ic (performEvent src s).ic := by
  cases src with
  | prescaler =>
    simp only [performEvent, prescalerEvent_ic]
    exact (setsOnly_tickedIc (.inl rfl) _).trans (setsOnly_tickedIc (.inr rfl) _)
  | uartTx =>
    simp only [performEvent, txEvent_eq, sentIc]
    split
    · exact setsOnly_raisedIc rfl
    · exact .refl
  | uartRxPoll =>
    simp only [performEvent]
    cases hread : hostBytes 1 s with
    | nil => exact .of_eq (rxPollEvent_of_nothing hread).2
    | cons b bs =>
      rw [(rxPollEvent_of_byte hread).2]
      exact setsOnly_raisedIc rfl
  | uartFlush => exact .of_eq rfl

/-- A firing raises levels of some source. -/
theorem setsOnly_fire (src : Source) (due : Nat) (s : State) :
    SetsOnly (raisedByEvents s.cfg) s.ic (fire src due s).ic :=
  (setsOnly_performEvent src (dequeue src (setNow due s))).mono fun _ hb => ⟨src, hb⟩

theorem setsOnly_waitTurn {s t : State} (h : waitTurn s = .next t) :
    SetsOnly (raisedByEvents s.cfg) s.ic t.ic := by
  rcases waitTurn_cases h with ⟨-, rfl⟩ | ⟨src, e, -, -, ⟨-, rfl⟩ | ⟨-, rfl⟩⟩
  · exact .refl
  · exact setsOnly_fire src e.due s
  · exact setsOnly_fire src e.due s

theorem setsOnly_advanceTo {fuel T : Nat} {s t : State} (h : advanceTo fuel T s = some t) :
    SetsOnly (raisedByEvents s.cfg) s.ic t.ic := by
  obtain ⟨u, ⟨-, hu⟩, rfl, -⟩ := advanceTo_induct
    (P := fun u => u.cfg = s.cfg ∧ SetsOnly (raisedByEvents s.cfg) s.ic u.ic)
    (fun u src e hu _ _ => ⟨(fire_cfg src e.due u).trans hu.1,
      hu.2.trans (hu.1 ▸ setsOnly_fire src e.due u)⟩) fuel s t ⟨rfl, .refl⟩ h
  exact hu

theorem setsOnly_advance {n : Nat} {s t : State} (h : execAdvance n s = .next t) :
    SetsOnly (raisedByEvents s.cfg) s.ic t.ic := by
  unfold execAdvance at h
  dsimp only at h
  split at h
  · rename_i hto
    cases h
    exact (setsOnly_advanceTo hto :)
  · cases h

/-! ## The UART's operations -/

section
variable {s t : State}

theorem setsOnly_readUartData (h : exec .readUartData s = .next t) :
    SetsOnly (fun b => b = s.cfg.irqUart) s.ic t.ic := by
  cases hm : s.cfg.uartMode with
  | buffered =>
    cases (exec_readUartData_buffered s hm).symm.trans h
    change SetsOnly _ s.ic (afterDataRead s).ic
    rw [afterDataRead_ic]
    split
    · exact setsOnly_raisedIc rfl
    · exact .refl
  | shift =>
    cases (exec_readUartData_shift hm).symm.trans h
    exact .refl

theorem setsOnly_writeUartData {v : Word} (h : exec (.writeUartData v) s = .next t) :
    SetsOnly (fun b => b = s.cfg.irqUart) s.ic t.ic := by
  cases hm : s.cfg.uartMode with
  | buffered =>
    by_cases hfull : s.buf.outbuf.length = s.cfg.bufCap
    · cases (exec_writeUartData_of_full v hm hfull).symm.trans h
      exact setsOnly_raisedIc rfl
    · cases (exec_writeUartData_of_room v hm hfull).symm.trans h
      exact setsOnly_raisedIc rfl
  | shift =>
    cases hts : s.shift.ts with
    | true =>
      cases (exec_writeUartData_of_free v hm hts).symm.trans h
      exact .refl
    | false =>
      cases (exec_writeUartData_of_busy v hm hts).symm.trans h
      exact .refl

theorem setsOnly_readUartStatus (h : exec .readUartStatus s = .next t) :
    SetsOnly (fun b => b = s.cfg.irqUart) s.ic t.ic := by
  cases hm : s.cfg.uartMode with
  | buffered =>
    cases (exec_readUartStatus_buffered hm).symm.trans h
    change SetsOnly _ s.ic (statusReadIc s)
    rcases statusReadIc_cases s with hic | hic
    · exact .of_eq hic
    · rw [hic]
      exact setsOnly_raisedIc rfl
  | shift =>
    cases (exec_readUartStatus_shift hm).symm.trans h
    exact .refl

theorem setsOnly_evUartTx (h : exec .evUartTx s = .next t) :
    SetsOnly (Source.raises s.cfg .uartTx) s.ic t.ic := by
  cases hm : s.cfg.uartMode with
  | buffered => simp [exec, execEvUartTx, hm] at h
  | shift =>
    cases (exec_evUartTx hm).symm.trans h
    exact setsOnly_performEvent .uartTx (dequeue .uartTx s)

theorem setsOnly_evUartRxPoll (h : exec .evUartRxPoll s = .next t) :
    SetsOnly (Source.raises s.cfg .uartRxPoll) s.ic t.ic := by
  cases hm : s.cfg.uartMode with
  | buffered => simp [exec, execEvUartRxPoll, hm] at h
  | shift =>
    cases (exec_evUartRxPoll hm).symm.trans h
    exact setsOnly_performEvent .uartRxPoll s

theorem evUartFlush_ic (h : exec .evUartFlush s = .next t) : t.ic = s.ic := by
  cases hm : s.cfg.uartMode with
  | buffered =>
    cases (exec_evUartFlush hm).symm.trans h
    rfl
  | shift => simp [exec, execEvUartFlush, hm] at h

/-! ## Writes of arrays, and the lifecycle -/

theorem writeRom_ic {w : Width} {a : Addr} {v : Double} (h : exec (.writeRom w a v) s = .next t) :
    t.ic = s.ic := by
  cases hrom : s.cfg.romWritable with
  | true =>
    cases (exec_writeRom_writable w a v hrom).symm.trans h
    rfl
  | false =>
    cases (exec_writeRom_readOnly w a v hrom).symm.trans h
    rfl

theorem bulkWrite_ic {a : Addr} {bs : List Byte} (h : exec (.bulkWrite a bs) s = .next t) :
    t.ic = s.ic := by
  by_cases hbs : bs = []
  · subst hbs
    cases h
    rfl
  · cases hsp : rangeSpace s.cfg a bs.length with
    | some sp =>
      cases (exec_bulkWrite_inside hbs hsp).symm.trans h
      cases sp <;> rfl
    | none =>
      cases (exec_bulkWrite_outside hbs hsp).symm.trans h
      rfl

theorem reset_ic (h : exec .reset s = .next t) : t.ic = ⟨0, 0, 0⟩ := by
  simp only [exec, execReset] at h
  split at h
  · cases h
  · cases h
    exact (resetCore_leaves s).ic

theorem init_ic (h : exec .init s = .next t) : t.ic = ⟨0, 0, 0⟩ := by
  by_cases hp : s.phase = .uninit
  · cases (exec_init_of_uninit hp).symm.trans h
    exact (resetCore_leaves (boundState s)).ic
  · cases (exec_init_of_not_uninit hp).symm.trans h

theorem shutdown_ic (h : exec .shutdown s = .next t) : t.ic = s.ic := by
  by_cases hp : s.phase = .closed
  · cases (exec_shutdown_of_closed hp).symm.trans h
    rfl
  · cases (exec_shutdown_of_not_closed hp).symm.trans h
    exact unchangedBut_shutdownCore s .ic (by decide)

end

/-! ## The interrupt controller's calls -/

section
variable {l : Byte} {s t : State}

theorem setsOnly_irqRaise (h : exec (.irqRaise l) s = .next t) :
    SetsOnly (fun b => l.toNat = b) s.ic t.ic := by
  by_cases hl : levelOk l = true
  · cases (exec_irqRaise_of_levelOk hl s).symm.trans h
    exact setsOnly_raisedIc rfl
  · cases (exec_irqRaise_of_not_levelOk hl s).symm.trans h

theorem setsOnly_irqAck {P : Nat → Prop} (h : exec (.irqAck l) s = .next t) :
    SetsOnly P s.ic t.ic := by
  by_cases hl : levelOk l = true
  · cases (exec_irqAck_of_levelOk hl s).symm.trans h
    exact setsOnly_acknowledgedIc l.toNat
  · cases (exec_irqAck_of_not_levelOk hl s).symm.trans h

end

/-! ## The dispatcher -/

/-- Every operation but IRQ_FORCE and IRQ_MASK writes sets only pending bits of levels it can
raise. -/
theorem exec_setsOnly {i : Instr} {s t : State} (h : exec i s = .next t)
    (hforce : ∀ v, i ≠ .writeIrqForce v) (hmask : ∀ v, i ≠ .writeIrqMask v) :
    SetsOnly (raisedBy s.cfg i) s.ic t.ic := by
  cases i with
  | writeIrqForce v => exact absurd rfl (hforce v)
  | writeIrqMask v => exact absurd rfl (hmask v)
  | writeIrqClear v =>
    cases h
    exact setsOnly_clear _
  | irqRaise l => exact setsOnly_irqRaise h
  | irqAck l => exact setsOnly_irqAck h
  | readUartData => exact setsOnly_readUartData h
  | writeUartData v => exact setsOnly_writeUartData h
  | readUartStatus => exact setsOnly_readUartStatus h
  | evPrescaler =>
    cases (exec_evPrescaler s).symm.trans h
    exact setsOnly_performEvent .prescaler s
  | evUartTx => exact setsOnly_evUartTx h
  | evUartRxPoll => exact setsOnly_evUartRxPoll h
  | evUartFlush => exact .of_eq (evUartFlush_ic h)
  | waitForInterrupt => exact setsOnly_waitTurn h
  | advance n => exact setsOnly_advance h
  | init => exact init_ic h ▸ setsOnly_zero
  | reset => exact reset_ic h ▸ setsOnly_zero
  | halt =>
    cases h
    exact .of_eq (unchangedBut_haltCore s .ic (by decide))
  | shutdown => exact .of_eq (shutdown_ic h)
  | writeRom w a v => exact .of_eq (writeRom_ic h)
  | bulkWrite a bs => exact .of_eq (bulkWrite_ic h)
  | bulkRead a len =>
    cases (exec_bulkRead a len s).symm.trans h
    exact .refl
  | writeIrqPending | writePreValue | writeUartStatus | writeApbUnassigned => cases h
  | _ =>
    cases h
    exact .refl

/-! ## The obligation -/

theorem raises_cases {c : Config} {src : Source} {b : Nat} (h : src.raises c b) :
    (b = c.irqT1 ∨ b = c.irqT2) ∨ b = c.irqUart := by
  cases src with
  | prescaler => exact .inl h
  | uartTx | uartRxPoll => exact .inr h
  | uartFlush => exact h.elim

/-- The operations that can raise a level, by whose level it is (R159). -/
theorem raisedBy_cases {c : Config} {i : Instr} {b : Nat} (h : raisedBy c i b) :
    (∃ l, i = .irqRaise l ∧ l.toNat = b) ∨
    ((b = c.irqT1 ∨ b = c.irqT2) ∧
      (i = .evPrescaler ∨ i = .waitForInterrupt ∨ ∃ n, i = .advance n)) ∨
    (b = c.irqUart ∧
      (i = .readUartData ∨ (∃ v, i = .writeUartData v) ∨ i = .readUartStatus ∨ i = .evUartTx ∨
        i = .evUartRxPoll ∨ i = .waitForInterrupt ∨ ∃ n, i = .advance n)) := by
  cases i with
  | irqRaise l => exact .inl ⟨l, rfl, h⟩
  | evPrescaler => exact .inr (.inl ⟨h, by simp⟩)
  | readUartData | writeUartData | readUartStatus | evUartTx | evUartRxPoll =>
    exact .inr (.inr ⟨h, by simp⟩)
  | waitForInterrupt | advance =>
    obtain ⟨src, hsrc⟩ := h
    rcases raises_cases hsrc with hb | hb
    · exact .inr (.inl ⟨hb, by simp⟩)
    · exact .inr (.inr ⟨hb, by simp⟩)
  | _ => exact h.elim

/-- Settles O34: but for the two register writes, each of which changes one latch, an operation sets
only pending bits of levels it can raise. -/
theorem latchBitsAreSetOnlyBySources : Obligations.LatchBitsAreSetOnlyBySources := by
  intro i s t b h
  by_cases hforce : ∃ v, i = .writeIrqForce v
  · obtain ⟨v, rfl⟩ := hforce
    cases h
    exact ⟨fun h1 h0 => absurd (h0.symm.trans h1) (by decide), fun _ _ => ⟨v, rfl⟩,
      fun h1 h0 => absurd (h0.symm.trans h1) (by decide)⟩
  by_cases hmask : ∃ v, i = .writeIrqMask v
  · obtain ⟨v, rfl⟩ := hmask
    cases h
    exact ⟨fun h1 h0 => absurd (h0.symm.trans h1) (by decide),
      fun h1 h0 => absurd (h0.symm.trans h1) (by decide), fun _ _ => ⟨v, rfl⟩⟩
  have hsets := exec_setsOnly h (not_exists.mp hforce) (not_exists.mp hmask)
  refine ⟨fun h1 h0 => ?_, fun h1 h0 => ?_, fun h1 h0 => ?_⟩
  · exact raisedBy_cases ((hsets.pending b h1).resolve_left (by simp [h0]))
  · exact absurd (h0.symm.trans (hsets.forced b h1)) (by decide)
  · exact absurd (h0.symm.trans (hsets.mask b h1)) (by decide)

end Sys2Proof.Machine
end

section
/-! PROOFS. Reset and boot (70_reset_and_hazards.md R171 to R173): what RESET leaves, what BOOT_INIT
programs, and the state after reset. -/

namespace Sys2Proof.Machine

/-! ## RESET -/

section
variable {s : State}

theorem exec_reset_of_closed (h : s.phase = .closed) : exec .reset s = .refused .reserved :=
  if_pos h

theorem exec_reset_of_not_closed (h : s.phase ≠ .closed) :
    exec .reset s = .next (respond .done (resetCore s)) := if_neg h

/-- With all three latches 0 no level is asserted (R94). -/
theorem irl_of_latches_zero (h : s.ic = ⟨0, 0, 0⟩) : irl s = 0 := by
  rw [irl, h]
  rfl

/-- Reset leaves the host as it was, but for what was emitted (R171). -/
theorem resetCore_host_of_emitted {out : List Byte} (h : (resetCore s).host.emitted = out) :
    (resetCore s).host = { s.host with emitted := out } := by
  rw [(resetCore_leaves s).host, h]

end

/-- Settles O54: what reset leaves in either mode, and the UART by its mode; by whether the core was
shut down. -/
theorem resetValues : Obligations.ResetValues := by
  intro s
  refine ⟨exec_reset_of_closed, fun hp => ?_⟩
  obtain ⟨hic, ⟨hen1, hrl1⟩, ⟨hen2, hrl2⟩, hloaded, hprescaler, htx, hseq, -⟩ := resetCore_leaves s
  refine ⟨_, exec_reset_of_not_closed hp, rfl, hic, irl_of_latches_zero hic, hen1, hrl1, hen2, hrl2,
    hloaded, hprescaler, htx, hseq, fun hm => ?buffered, fun hm => ?shift,
    unchangedBut_respond .done (unchangedBut_resetCore s)⟩
  case buffered =>
    obtain ⟨hbuf, hshift, hflush, hpoll, hemitted⟩ := resetCore_uart_of_buffered hm
    rw [respond, setResponse_buf, hbuf]
    exact ⟨rfl, rfl, rfl, hshift, hflush, hpoll,
      hemitted.imp resetCore_host_of_emitted (And.imp_right resetCore_host_of_emitted)⟩
  case shift =>
    obtain ⟨hdr, hts, hth, hov, hbuf, hemitted, hpoll, hflush⟩ := resetCore_uart_of_shift hm
    exact ⟨hdr, hts, hth, hov, hbuf, resetCore_host_of_emitted hemitted, hpoll, hflush⟩

/-! ## BOOT_INIT -/

theorem exec_bootInit (s : State) : exec .bootInit s = .next (respond .done (bootCore s)) := rfl

/-- The reload value F - 1 is not cut by a register wide enough for it (R173). -/
theorem toNat_ofNat_pred_add_one {w f : Nat} (h0 : 1 ≤ f) (hw : f ≤ 2 ^ w) :
    (BitVec.ofNat w (f - 1)).toNat + 1 = f := by
  rw [BitVec.toNat_ofNat, Nat.mod_eq_of_lt (by omega)]
  omega

theorem unchangedBut_bootCore (s : State) : UnchangedBut [.pre, .queue, .t1] s (bootCore s) :=
  (unchangedBut_loadPrescaler _ s).trans (unchangedBut_setChannel .one _ _)

/-- Settles O56: a load of the prescaler with F - 1, which R9 bounds by 65535, and one new content
of channel 1. -/
theorem bootInitProgramsTimerOne : Obligations.BootInitProgramsTimerOne := by
  intro s ha
  obtain ⟨-, -, -, -, hpos, hmax⟩ := admitted_times ha
  have hscaler : (BitVec.ofNat 16 (s.cfg.freqMhz - 1)).toNat + 1 = s.cfg.freqMhz :=
    toNat_ofNat_pred_add_one hpos hmax
  have hreload : (BitVec.ofNat 32 (s.cfg.freqMhz - 1)).toNat + 1 = s.cfg.freqMhz :=
    toNat_ofNat_pred_add_one hpos (hmax.trans (by decide))
  refine ⟨_, exec_bootInit s, rfl, hscaler, rfl, ?entry, rfl,
    fun src hsrc => slot_put_other _ _ hsrc, hreload, rfl, rfl, rfl,
    unchangedBut_respond .done (unchangedBut_bootCore s)⟩
  case entry =>
    conv_rhs => rw [← hscaler]
    rfl

/-! ## The state after reset -/

/-- The entries of a started core are due at time 0 or later and were scheduled first and second;
the periodic one is the selected mode's (R171). -/
theorem initial_queueOk (c : Config) :
    QueueOk (State.initial c) ∧ ModeQueueOk (State.initial c) ∧ PrescalerOk (State.initial c) ∧
      PeriodicOk (State.initial c) := by
  cases hm : c.uartMode <;>
    simp [State.initial, hm, QueueOk, ModeQueueOk, PrescalerOk, PeriodicOk, EntryOk]

/-- In every admitted configuration THE INVARIANT holds after INIT (R171, R172). -/
theorem initial_inv {c : Config} (h : c.admitted = true) : (State.initial c).Inv := by
  obtain ⟨hqueue, hmode, hprescaler, hperiodic⟩ := initial_queueOk c
  exact ⟨h, ⟨rfl, rfl, rfl, rfl⟩, ⟨BitVec.getLsbD_zero, (irl_of_latches_zero rfl).symm⟩,
    ⟨le_rfl, le_rfl, Nat.zero_le _, Nat.zero_le _⟩, nofun, hqueue, hmode, hprescaler, hperiodic,
    nofun⟩

/-- Settles O11: the reference configuration is admitted. -/
theorem resetMeetsInvariant : Obligations.ResetMeetsInvariant := initial_inv (by decide)

end Sys2Proof.Machine
end
